-- ==== Sys2Proof/Word.lean ====
section
/-! DEFINITION. The word types of the CRC-8 cascade derivation engine: byte, bus word, register address and the
6-byte sequence (00_scope.md R8, R9, R11, R13). -/

namespace Sys2Proof

/-- A byte: 8 bits, bit 7 the most significant (R8, R11). -/
abbrev Byte := BitVec 8

/-- One 16-bit bus transaction word (R9, R70). -/
abbrev BusWord := BitVec 16

/-- A 5-bit register address (R9, R50). -/
abbrev Addr := BitVec 5

/-- The index of an element of a 6-byte sequence, 0 to 5 (R4, R13). -/
abbrev Index := Fin 6

/-- A 6-byte sequence, element 0 first (R13): the shape of the Identifier, the WorkingBuffer and the LicenseCode. -/
abbrev Bytes6 := Vector Byte 6

/-- The sequence `[0x00]*6`. -/
def zeros : Bytes6 := Vector.replicate 6 0x00

end Sys2Proof
end

