-- ==== Sys2Proof/Config.lean ====
section
/-! DEFINITION. The constants of the scheme, hard-wired as 00_scope.md R4 asks ("A model must hard-wire them and must not
take them as parameters"), and the free values for what the spec leaves open. -/

namespace Sys2Proof.Config

/-- `TEMPLATE`, the working buffer's constant initial contents (R4). -/
def template : Bytes6 := #v[0x19, 0x56, 0xAD, 0xC0, 0xB3, 0xF3]

/-- `SEED`, the value every checksum starts from (R4, R100). -/
def seed : Byte := 0xCD

/-- `POLY`, the value XORed in when bit 7 is shifted out (R4, R100). -/
def poly : Byte := 0x07

/-- Free value: whether `MODE` is ALL after a reset that happens during a run, the n-th time a free value is drawn.
10_state.md R29 and R36 leave MODE unspecified after reset (UNVERIFIED value, safe: nothing can evaluate it; log 2). -/
opaque modeAllAfterReset : Nat → Bool

/-- Free value: the byte handed back to a read that overlaps asserted reset, the n-th time a free value is drawn.
93_implementation_defined.md U9: "any value for a read" (safe; log 7). -/
opaque overlapReadByte : Nat → Byte

end Sys2Proof.Config
end

