-- ==== Sys2Proof/Machine/State.lean ====
section
/-! DEFINITION. The engine's state as 10_state.md R20 lists it, the environment's part of the model's state, the reasons a step
can stop, and the state after reset (R36). -/

namespace Sys2Proof.Machine

/-- `MODE`, the hidden run mode (R29): `one` performs one stage, `all` performs stages until `STAGE = 6`. -/
inductive Mode where
  | one
  | all
  deriving DecidableEq, Repr

/-- `ERRC`, the 2-bit error code (R28); its four values are all named. -/
inductive ErrCode where
  /-- 0, `ERR_NONE`: no error. -/
  | none
  /-- 1, `ERR_ILLEGAL`: reserved encoding. -/
  | illegal
  /-- 2, `ERR_BUSY`: operation not allowed while busy or ACTIVE. -/
  | busy
  /-- 3, `ERR_SEQ`: `CMD.STEP` with no stage left. -/
  | seq
  deriving DecidableEq, Repr

/-- One thing the world outside the engine's registers does next: the host issues a word, the engine is given its turn, the
reset input is asserted or released (20_memory.md R58, 70_reset_and_hazards.md R230; log 3). -/
inductive Event where
  /-- The host issues one bus word. -/
  | word (w : BusWord)
  /-- The engine's turn: its stage step happens if it is enabled. -/
  | engine
  /-- The reset input is asserted: the reset step of R230. -/
  | resetAssert
  /-- The reset input is released. -/
  | resetRelease
  deriving DecidableEq, Repr

/-- The machine. The first eight fields are the engine's state, exactly R20's list; the rest is the environment's. -/
structure State where
  /-- `ID[0..5]`, the Identifier (R21). -/
  id : Bytes6
  /-- `WB[0..5]`, the WorkingBuffer (R22). -/
  wb : Bytes6
  /-- `LIC[0..5]`, the LicenseCode (R23). -/
  lic : Bytes6
  /-- `STAGE`, the stage counter and only program counter, 3 bits (R24). -/
  stage : BitVec 3
  /-- `BUSY` (R26). -/
  busy : Bool
  /-- `DONE` (R26). -/
  done : Bool
  /-- `ERRC` (R28). -/
  errc : ErrCode
  /-- `MODE` (R29). -/
  mode : Mode
  /-- The level of the reset input: true while reset stays asserted (R230). -/
  resetHeld : Bool
  /-- What the last bus transaction handed back to the host, none for a write (R71, R72; the model's own, log 6). -/
  reply : Option Byte
  /-- The events to come, the first one next (R58; the model's own, log 3). -/
  schedule : List Event
  /-- How many free values have been drawn (the model's own; log 2, log 7). -/
  freeCount : Nat
  deriving DecidableEq, Repr

/-- Why a step can stop with a fault. -/
inductive Fault where
  /-- Raised by the engine's stage step alone, when it is enabled with `STAGE` at 6 or 7, where 41_cascade.md R120 gives it no
  meaning ("STAGE <= 5 here"). Safe: no state that a run from reset reaches has it (R37 item 2; log 8). -/
  | stageOutOfRange
  deriving DecidableEq, Repr

/-- Why an instruction can have no meaning. -/
inductive Refusal where
  /-- Raised by an arm of `exec` for an instruction not modelled yet; no arm does. Safe. -/
  | notModelled (mnemonic : String)
  deriving DecidableEq, Repr

/-- What one step or one instruction answers. -/
abbrev Result := Host.Outcome State Fault Refusal

/-- The machine right after reset: every engine field as R36 gives it. `MODE` is unspecified there and is ONE here (DESIGN
CHOICE, unsafe; log 1). Reset is released and nothing is scheduled (DESIGN CHOICE, unsafe; log 19). -/
def State.reset : State where
  id := zeros
  wb := Config.template
  lic := zeros
  stage := 0
  busy := false
  done := false
  errc := .none
  mode := .one
  resetHeld := false
  reply := none
  schedule := []
  freeCount := 0

end Sys2Proof.Machine
end

