-- ==== Sys2Proof/Machine/Flags.lean ====
section
/-! DEFINITION. Conditions and outputs computed from the state: `ACTIVE`, `ERR`, `STATUS`, the level outputs, and the update of
`ERRC` and of the stage flags (10_state.md R26-R28, R32, R34; 60_exceptions.md R202; 41_cascade.md R120). -/

namespace Sys2Proof.Machine

/-- The 2-bit value of an error code (R28). -/
def ErrCode.bits : ErrCode → BitVec 2
  | .none => 0
  | .illegal => 1
  | .busy => 2
  | .seq => 3

/-- `1 <= STAGE <= 5`: a derivation is part done (R27). -/
def State.partDone (s : State) : Bool := decide (1#3 ≤ s.stage) && decide (s.stage ≤ 5#3)

/-- `ACTIVE = (BUSY == 1) or (1 <= STAGE <= 5)` (R27). -/
def State.active (s : State) : Bool := s.busy || s.partDone

/-- `ERR = (ERRC != 0)` (R28). -/
def State.err (s : State) : Bool := s.errc != .none

/-- `STATUS = {ERRC[1:0], STAGE[2:0], ERR, DONE, BUSY}`: each field at its place (R32). -/
def State.status (s : State) : Byte :=
  s.errc.bits.setWidth 8 <<< 6 ||| s.stage.setWidth 8 <<< 3 ||| (BitVec.ofBool s.err).setWidth 8 <<< 2 |||
    (BitVec.ofBool s.done).setWidth 8 <<< 1 ||| (BitVec.ofBool s.busy).setWidth 8

/-- The level output `done_o` (R34). -/
def State.doneO (s : State) : Bool := s.done

/-- The level output `err_o` (R34). -/
def State.errO (s : State) : Bool := s.err

/-- The error code that is kept when `code` is raised over `old`: the first error wins (R202). -/
def firstError (old code : ErrCode) : ErrCode := if old = .none then code else old

/-- `DONE` after stage `k` (R120). -/
def doneAfter (k : Index) (done : Bool) : Bool := if k.val + 1 = 6 then true else done

/-- `BUSY` after stage `k` in run mode `mode` (R120). -/
def busyAfter (k : Index) (mode : Mode) (busy : Bool) : Bool :=
  if mode = .one ∨ k.val + 1 = 6 then false else busy

end Sys2Proof.Machine
end

