-- ==== Sys2Proof/Machine/Ops.lean ====
section
/-! DEFINITION. The named operations that the meanings share: handing a byte back to the host, writing an identifier byte,
beginning a derivation, raising a protocol error, and the two ways out of an error, clearing and reset. -/

namespace Sys2Proof.Machine

/-- Hands the byte `b` back to the host (42_bus_access.md, "`return v`"). -/
def giveBack (b : Byte) (s : State) : State := { s with reply := some b }

/-- Ends a transaction that hands back nothing (R72). -/
def giveNothing (s : State) : State := { s with reply := none }

/-- `ID[k] <- D` (R141). -/
def writeId (k : Index) (d : Byte) (s : State) : State := { s with id := s.id.set k d }

/-- The constants a new derivation starts from: `WB <- TEMPLATE`, `LIC <- [0x00]*6`, `STAGE <- 0`, `DONE <- 0`
(R171, R172, R174). -/
def freshDerivation (s : State) : State :=
  { s with wb := Config.template, lic := zeros, stage := 0, done := false }

/-- `MODE <- m; BUSY <- 1`: enables the engine's stage step (R171, R173). -/
def enableEngine (m : Mode) (s : State) : State := { s with mode := m, busy := true }

/-- `BUSY <- 0; ERRC <- 0`: withdraws a pending stage and leaves the error state (R174, R205). -/
def withdrawAndForgive (s : State) : State := { s with busy := false, errc := .none }

/-- `raise Error(code)` (60_exceptions.md R202): the engine's whole error entry. It saves nothing, transfers no control and
changes no other field (R204). -/
def raiseError (code : ErrCode) (s : State) : State := { s with errc := firstError s.errc code }

/-- The reset step (70_reset_and_hazards.md R230): every engine field at its value of 10_state.md R36, the reset input
asserted. `MODE` is unspecified after it and so is a free value (safe; log 2). -/
def resetEngine (s : State) : State :=
  { s with
    id := zeros, wb := Config.template, lic := zeros, stage := 0, busy := false, done := false, errc := .none,
    mode := if Config.modeAllAfterReset s.freeCount then .all else .one,
    resetHeld := true, freeCount := s.freeCount + 1 }

/-- The reset input is released (R230). -/
def releaseReset (s : State) : State := { s with resetHeld := false }

/-- A bus word that overlaps asserted reset is not performed (R230). A read hands back any byte, a write nothing
(93_implementation_defined.md U9; DESIGN CHOICE among U9's two, safe; log 7). -/
def overlapReset (isWrite : Bool) (s : State) : State :=
  if isWrite then giveNothing s
  else { giveBack (Config.overlapReadByte s.freeCount) s with freeCount := s.freeCount + 1 }

end Sys2Proof.Machine
end

