-- ==== Sys2Proof/Machine/Cascade.lean ====
section
/-! DEFINITION. The six-stage cascade (41_cascade.md): the engine's stage step (R120) and the reference function `derive` (R124). -/

namespace Sys2Proof.Machine

/-- Stage `k` (R120): step 2a writes `WB[k]`, step 2b takes the checksum of the updated buffer, step 2c appends it. -/
def runStage (k : Index) (s : State) : State :=
  let buffer := s.wb.set k (s.id[k])
  { s with
    wb := buffer
    lic := s.lic.set k (crc8 buffer)
    stage := s.stage + 1
    done := doneAfter k s.done
    busy := busyAfter k s.mode s.busy }

/-- `STAGE_STEP` (R120), taken only while `BUSY = 1`: stage `STAGE`. Where `STAGE` is 6 or 7 the rule gives it no meaning, and
it stops (safe: no run reaches that; log 8). -/
def stageStep (s : State) : Result :=
  if h : s.stage.toNat < 6 then .next (runStage ⟨s.stage.toNat, h⟩ s) else .fault .stageOutOfRange

/-- The engine's turn: its stage step while it is enabled (`BUSY == 1` and reset released, R120, R230), nothing otherwise
(R213; log 5). -/
def engineTurn (s : State) : Result :=
  if s.busy && !s.resetHeld then stageStep s else .next s

/-- The loop of R124 over the iterations still to come, with the buffer and the license so far. -/
def deriveLoop (identifier : Bytes6) : List Index → Bytes6 → List Byte → List Byte
  | [], _, license => license
  | i :: rest, buffer, license =>
    let buffer' := buffer.set i (identifier[i])
    deriveLoop identifier rest buffer' (license ++ [crc8 buffer'])

/-- `derive(identifier)`, the engine's one contract (R3, R124). -/
def derive (identifier : Bytes6) : List Byte :=
  deriveLoop identifier [0, 1, 2, 3, 4, 5] Config.template []

/-- `x[0..k] ++ TEMPLATE[k+1..5]`: the buffer of stage `k` (R123, R132). -/
def mixed (x : Bytes6) (k : Index) : Bytes6 :=
  Vector.ofFn fun j => if j ≤ k then x[j] else Config.template[j]

end Sys2Proof.Machine
end

