-- ==== Sys2Proof/Syntax.lean ====
section
/-! DEFINITION. The host's instructions: one constructor per mnemonic of spec/opcode_table.json (30_encoding.md R76, R77).
A register index is a `Fin 6` (R75: "it is legal when `k <= 5`"). A read carries no data field, because all 256 values of `D`
give the same instruction (R71). An ignored write carries its `D`, and `ILLEGAL` carries its whole word, so that they can be
written out again (DESIGN CHOICE, safe; log 10). -/

namespace Sys2Proof

/-- The 22 instructions of the engine's host interface. -/
inductive Instr where
  /-- `RD.ID k` (R140). -/
  | rdId (k : Index)
  /-- `WR.ID k, D` (R141). -/
  | wrId (k : Index) (d : Byte)
  /-- `RD.LIC k` (R142). -/
  | rdLic (k : Index)
  /-- `WR.LIC k, D`, ignored (R143). -/
  | wrLic (k : Index) (d : Byte)
  /-- `RD.WB k` (R144). -/
  | rdWb (k : Index)
  /-- `WR.WB k, D`, ignored (R145). -/
  | wrWb (k : Index) (d : Byte)
  /-- `RD.CMD` (R146). -/
  | rdCmd
  /-- `RD.STATUS` (R147). -/
  | rdStatus
  /-- `RD.POLY` (R148). -/
  | rdPoly
  /-- `RD.SEED` (R150). -/
  | rdSeed
  /-- `WR.STATUS D`, ignored (R149). -/
  | wrStatus (d : Byte)
  /-- `WR.POLY D`, ignored (R151). -/
  | wrPoly (d : Byte)
  /-- `WR.SEED D`, ignored (R152). -/
  | wrSeed (d : Byte)
  /-- `RD.RSV`: a read of the reserved address `a` (R154). -/
  | rdRsv (a : Addr)
  /-- `WR.RSV A, D`: a write to the reserved address `a`, ignored (R155). -/
  | wrRsv (a : Addr) (d : Byte)
  /-- `CMD.NOP` (R170). -/
  | cmdNop
  /-- `CMD.START` (R171). -/
  | cmdStart
  /-- `CMD.INIT` (R172). -/
  | cmdInit
  /-- `CMD.STEP` (R173). -/
  | cmdStep
  /-- `CMD.CLEAR` (R174). -/
  | cmdClear
  /-- `CMD.RSV`: the reserved command code `d` (R175). -/
  | cmdRsv (d : Byte)
  /-- `ILLEGAL`: a bus word with reserved bits set (R153). -/
  | illegal (w : BusWord)
  deriving DecidableEq, Repr

/-- The mnemonic, as spec/opcode_table.json spells it. -/
def Instr.mnemonic : Instr → String
  | .rdId _ => "RD.ID"
  | .wrId _ _ => "WR.ID"
  | .rdLic _ => "RD.LIC"
  | .wrLic _ _ => "WR.LIC"
  | .rdWb _ => "RD.WB"
  | .wrWb _ _ => "WR.WB"
  | .rdCmd => "RD.CMD"
  | .rdStatus => "RD.STATUS"
  | .rdPoly => "RD.POLY"
  | .rdSeed => "RD.SEED"
  | .wrStatus _ => "WR.STATUS"
  | .wrPoly _ => "WR.POLY"
  | .wrSeed _ => "WR.SEED"
  | .rdRsv _ => "RD.RSV"
  | .wrRsv _ _ => "WR.RSV"
  | .cmdNop => "CMD.NOP"
  | .cmdStart => "CMD.START"
  | .cmdInit => "CMD.INIT"
  | .cmdStep => "CMD.STEP"
  | .cmdClear => "CMD.CLEAR"
  | .cmdRsv _ => "CMD.RSV"
  | .illegal _ => "ILLEGAL"

end Sys2Proof
end

