-- ==== Sys2Proof/WellFormed.lean ====
section
/-! DEFINITION. Which instruction terms stand for a bus word: the operand conditions of 42_bus_access.md R153-R155 and
43_commands.md R175. A register index needs no check: its type is `Fin 6`. -/

namespace Sys2Proof

/-- The reserved addresses, as R154 lists them. -/
def reservedAddrs : List Addr := [0x06, 0x07, 0x0E, 0x0F, 0x16, 0x17, 0x1C, 0x1D, 0x1E, 0x1F]

/-- The instruction's operands are among those the spec gives its mnemonic. -/
def Instr.wf : Instr → Bool
  | .rdRsv a => reservedAddrs.contains a
  | .wrRsv a _ => reservedAddrs.contains a
  | .cmdRsv d => decide (0x05#8 ≤ d)
  | .illegal w => w.extractLsb' 13 2 != 0b00#2
  | .rdId _ => true
  | .wrId _ _ => true
  | .rdLic _ => true
  | .wrLic _ _ => true
  | .rdWb _ => true
  | .wrWb _ _ => true
  | .rdCmd => true
  | .rdStatus => true
  | .rdPoly => true
  | .rdSeed => true
  | .wrStatus _ => true
  | .wrPoly _ => true
  | .wrSeed _ => true
  | .cmdNop => true
  | .cmdStart => true
  | .cmdInit => true
  | .cmdStep => true
  | .cmdClear => true

end Sys2Proof
end

