-- ==== Sys2Proof/Decode.lean ====
section
/-! DEFINITION. The bus word format `BUS16` and the command format `CMD8` (30_encoding.md R70-R74), the total decoder (R76),
the encoder, and the opcode table as rows of mask and match (spec/opcode_table.json). -/

namespace Sys2Proof

/-! ## Fields of a bus word (R70) -/

/-- Bit 15, `W`: true for a write. -/
def writeBit (w : BusWord) : Bool := w.getLsbD 15

/-- Bits 14:13, `RSV`. -/
def rsvField (w : BusWord) : BitVec 2 := w.extractLsb' 13 2

/-- Bits 12:8, `A`. -/
def addrField (w : BusWord) : Addr := w.extractLsb' 8 5

/-- Bits 7:0, `D`. -/
def dataField (w : BusWord) : Byte := w.extractLsb' 0 8

/-- The word with the four fields given, each at its place: `W` at bit 15, `RSV` at 13, `A` at 8, `D` at 0 (R70). -/
def busWord (write : Bool) (rsv : BitVec 2) (a : Addr) (d : Byte) : BusWord :=
  (BitVec.ofBool write).setWidth 16 <<< 15 ||| rsv.setWidth 16 <<< 13 ||| a.setWidth 16 <<< 8 ||| d.setWidth 16

/-- The canonical read word of an address, `A << 8` (R70, R71). -/
def readWord (a : Addr) : BusWord := busWord false 0b00 a 0x00

/-- The write word of an address and a byte, `0x8000 | (A << 8) | D` (R70). -/
def writeWord (a : Addr) (d : Byte) : BusWord := busWord true 0b00 a d

/-! ## Operand assembly (R51, R75) -/

/-- `A[4:3]`, the group of eight addresses. -/
def addrGroup (a : Addr) : BitVec 2 := a.extractLsb' 3 2

/-- `A[2:0]`, the place within the group. -/
def addrSlot (a : Addr) : BitVec 3 := a.extractLsb' 0 3

/-- The register index `k = A[2:0]`, where it is legal (`k <= 5`). -/
def regIndex (a : Addr) : Option Index :=
  if h : (addrSlot a).toNat < 6 then some ⟨(addrSlot a).toNat, h⟩ else none

/-- The address of `ID<k>`: `k`. -/
def idAddr (k : Index) : Addr := BitVec.ofNat 5 k

/-- The address of `LIC<k>`: `0x08 + k`. -/
def licAddr (k : Index) : Addr := 0x08 + BitVec.ofNat 5 k

/-- The address of `WB<k>`: `0x10 + k`. -/
def wbAddr (k : Index) : Addr := 0x10 + BitVec.ofNat 5 k

/-- The address of the command port `CMD`. -/
def cmdAddr : Addr := 0x18

/-- The address of `STATUS`. -/
def statusAddr : Addr := 0x19

/-- The address of `POLY`. -/
def polyAddr : Addr := 0x1A

/-- The address of `SEED`. -/
def seedAddr : Addr := 0x1B

/-! ## The decoder (R76) -/

/-- The read half of R76's decoder. -/
def decodeRead (a : Addr) : Instr :=
  match addrGroup a, regIndex a with
  | 0b00, some k => .rdId k
  | 0b01, some k => .rdLic k
  | 0b10, some k => .rdWb k
  | 0b11, _ =>
    match addrSlot a with
    | 0 => .rdCmd
    | 1 => .rdStatus
    | 2 => .rdPoly
    | 3 => .rdSeed
    | _ => .rdRsv a
  | _, _ => .rdRsv a

/-- The command a byte written to `CMD` selects (R74). -/
def decodeCommand (d : Byte) : Instr :=
  match d with
  | 0x00 => .cmdNop
  | 0x01 => .cmdStart
  | 0x02 => .cmdInit
  | 0x03 => .cmdStep
  | 0x04 => .cmdClear
  | _ => .cmdRsv d

/-- The write half of R76's decoder. -/
def decodeWrite (a : Addr) (d : Byte) : Instr :=
  match addrGroup a, regIndex a with
  | 0b00, some k => .wrId k d
  | 0b01, some k => .wrLic k d
  | 0b10, some k => .wrWb k d
  | 0b11, _ =>
    match addrSlot a with
    | 0 => decodeCommand d
    | 1 => .wrStatus d
    | 2 => .wrPoly d
    | 3 => .wrSeed d
    | _ => .wrRsv a d
  | _, _ => .wrRsv a d

/-- The decoder: total over all 65536 words (R76). -/
def decode (w : BusWord) : Instr :=
  if rsvField w ≠ 0b00 then .illegal w
  else if writeBit w then decodeWrite (addrField w) (dataField w)
  else decodeRead (addrField w)

/-- What the decoder reads from a table row's word: a row has `nbits` bits, at most the 16 of a bus word, and the bits above
are 0. There is no other instruction length (R78), so a wider word is no instruction (log 17). -/
def decodeTableWord (nbits w : Nat) : Option Instr :=
  if nbits ≤ 16 ∧ w < 2 ^ nbits then some (decode (BitVec.ofNat 16 w)) else none

/-! ## The encoder (R70, R74, R77, R81) -/

/-- The word of an instruction; a read's word is the canonical one, with `D = 0x00` (R71). -/
def encode : Instr → BusWord
  | .rdId k => readWord (idAddr k)
  | .wrId k d => writeWord (idAddr k) d
  | .rdLic k => readWord (licAddr k)
  | .wrLic k d => writeWord (licAddr k) d
  | .rdWb k => readWord (wbAddr k)
  | .wrWb k d => writeWord (wbAddr k) d
  | .rdCmd => readWord cmdAddr
  | .rdStatus => readWord statusAddr
  | .rdPoly => readWord polyAddr
  | .rdSeed => readWord seedAddr
  | .wrStatus d => writeWord statusAddr d
  | .wrPoly d => writeWord polyAddr d
  | .wrSeed d => writeWord seedAddr d
  | .rdRsv a => readWord a
  | .wrRsv a d => writeWord a d
  | .cmdNop => writeWord cmdAddr 0x00
  | .cmdStart => writeWord cmdAddr 0x01
  | .cmdInit => writeWord cmdAddr 0x02
  | .cmdStep => writeWord cmdAddr 0x03
  | .cmdClear => writeWord cmdAddr 0x04
  | .cmdRsv d => writeWord cmdAddr d
  | .illegal w => w

/-- The word a word's instruction is written with: a legal read word loses its ignored `D` (R71, R83), every other word is
its own. -/
def canonicalWord (w : BusWord) : BusWord :=
  if writeBit w = false ∧ rsvField w = 0b00 then w &&& 0xFF00 else w

/-! ## The opcode table (spec/opcode_table.json) -/

/-- One row: a word `w` belongs to it when `w &&& mask = pattern`. -/
structure OpcodeRow where
  mnemonic : String
  pattern : BusWord
  mask : BusWord
  deriving DecidableEq, Repr

/-- The word belongs to the row. -/
def OpcodeRow.covers (r : OpcodeRow) (w : BusWord) : Bool := w &&& r.mask == r.pattern

/-- Six rows with mask `0xFF00`, one for each register index, from the pattern of index 0 on. -/
def indexedRows (mnemonic : String) (base : BusWord) : List OpcodeRow :=
  (List.range 6).map fun k => ⟨mnemonic, base + BitVec.ofNat 16 (0x100 * k), 0xFF00⟩

/-- The rows of the reads and writes at one fixed address. -/
def fixedAddressRows : List OpcodeRow :=
  [⟨"RD.CMD", 0x1800, 0xFF00⟩, ⟨"RD.STATUS", 0x1900, 0xFF00⟩, ⟨"RD.POLY", 0x1A00, 0xFF00⟩,
   ⟨"RD.SEED", 0x1B00, 0xFF00⟩, ⟨"WR.STATUS", 0x9900, 0xFF00⟩, ⟨"WR.POLY", 0x9A00, 0xFF00⟩,
   ⟨"WR.SEED", 0x9B00, 0xFF00⟩]

/-- The rows of the reserved addresses. -/
def reservedAddressRows : List OpcodeRow :=
  [⟨"RD.RSV", 0x0600, 0xFE00⟩, ⟨"RD.RSV", 0x0E00, 0xFE00⟩, ⟨"RD.RSV", 0x1600, 0xFE00⟩,
   ⟨"RD.RSV", 0x1C00, 0xFC00⟩, ⟨"WR.RSV", 0x8600, 0xFE00⟩, ⟨"WR.RSV", 0x8E00, 0xFE00⟩,
   ⟨"WR.RSV", 0x9600, 0xFE00⟩, ⟨"WR.RSV", 0x9C00, 0xFC00⟩]

/-- The rows of the commands. -/
def commandRows : List OpcodeRow :=
  [⟨"CMD.NOP", 0x9800, 0xFFFF⟩, ⟨"CMD.START", 0x9801, 0xFFFF⟩, ⟨"CMD.INIT", 0x9802, 0xFFFF⟩,
   ⟨"CMD.STEP", 0x9803, 0xFFFF⟩, ⟨"CMD.CLEAR", 0x9804, 0xFFFF⟩, ⟨"CMD.RSV", 0x9805, 0xFFFF⟩,
   ⟨"CMD.RSV", 0x9806, 0xFFFE⟩, ⟨"CMD.RSV", 0x9808, 0xFFF8⟩, ⟨"CMD.RSV", 0x9810, 0xFFF0⟩,
   ⟨"CMD.RSV", 0x9820, 0xFFE0⟩, ⟨"CMD.RSV", 0x9840, 0xFFC0⟩, ⟨"CMD.RSV", 0x9880, 0xFF80⟩]

/-- The rows of the illegal words. -/
def illegalRows : List OpcodeRow :=
  [⟨"ILLEGAL", 0x4000, 0x4000⟩, ⟨"ILLEGAL", 0x2000, 0x6000⟩]

/-- The 65 rows of spec/opcode_table.json, in its order. -/
def opcodeTable : List OpcodeRow :=
  indexedRows "RD.ID" 0x0000 ++ indexedRows "RD.LIC" 0x0800 ++ indexedRows "RD.WB" 0x1000 ++
  indexedRows "WR.ID" 0x8000 ++ indexedRows "WR.LIC" 0x8800 ++ indexedRows "WR.WB" 0x9000 ++
  fixedAddressRows ++ reservedAddressRows ++ commandRows ++ illegalRows

end Sys2Proof
end

