-- ==== Sys2Proof/Machine/Operands.lean ====
section
/-! DEFINITION. The register address space as the host reads it: `RegRead` over the whole 5-bit address range
(20_memory.md R51, R52), and the read of one element of each register file (R75). -/

namespace Sys2Proof.Machine

/-- `ID[k]`. -/
def State.idByte (s : State) (k : Index) : Byte := s.id[k]

/-- `LIC[k]`. -/
def State.licByte (s : State) (k : Index) : Byte := s.lic[k]

/-- `WB[k]`. -/
def State.wbByte (s : State) (k : Index) : Byte := s.wb[k]

/-- What a read of a register file's address hands back: the element, or 0x00 at indexes 6 and 7 (R52). -/
def fileRead (file : Bytes6) (a : Addr) : Byte :=
  match regIndex a with
  | some k => file[k]
  | none => 0x00

/-- `RegRead(A)` (R52): it has no side effect, so it is a function of the state. -/
def regRead (a : Addr) (s : State) : Byte :=
  match addrGroup a with
  | 0b00 => fileRead s.id a
  | 0b01 => fileRead s.lic a
  | 0b10 => fileRead s.wb a
  | _ =>
    match addrSlot a with
    | 1 => s.status
    | 2 => Config.poly
    | 3 => Config.seed
    | _ => 0x00

end Sys2Proof.Machine
end

