-- ==== Sys2Proof/Machine/BusAccess.lean ====
section
/-! DEFINITION. The register access instructions (42_bus_access.md), one meaning each. "No instruction here changes `STAGE`,
`BUSY`, `DONE`, `WB` or `LIC`." -/

namespace Sys2Proof.Machine

/-- `RD.ID k` (R140): `return ID[k]`. -/
def execRdId (k : Index) (s : State) : Result := .next (giveBack (s.idByte k) s)

/-- `WR.ID k, D` (R141): refused with ERR_BUSY while ACTIVE, else `ID[k] <- D`. -/
def execWrId (k : Index) (d : Byte) (s : State) : Result :=
  .next (giveNothing (if s.active then raiseError .busy s else writeId k d s))

/-- `RD.LIC k` (R142): `return LIC[k]`. -/
def execRdLic (k : Index) (s : State) : Result := .next (giveBack (s.licByte k) s)

/-- `WR.LIC k, D` (R143): no operation. -/
def execWrLic (_k : Index) (_d : Byte) (s : State) : Result := .next (giveNothing s)

/-- `RD.WB k` (R144): `return WB[k]`. -/
def execRdWb (k : Index) (s : State) : Result := .next (giveBack (s.wbByte k) s)

/-- `WR.WB k, D` (R145): no operation. -/
def execWrWb (_k : Index) (_d : Byte) (s : State) : Result := .next (giveNothing s)

/-- `RD.CMD` (R146): `return 0x00`; it performs no command. -/
def execRdCmd (s : State) : Result := .next (giveBack 0x00 s)

/-- `RD.STATUS` (R147): `return {ERRC[1:0], STAGE[2:0], (ERRC != 0), DONE, BUSY}`. -/
def execRdStatus (s : State) : Result := .next (giveBack s.status s)

/-- `RD.POLY` (R148): `return 0x07`. -/
def execRdPoly (s : State) : Result := .next (giveBack Config.poly s)

/-- `RD.SEED` (R150): `return 0xCD`. -/
def execRdSeed (s : State) : Result := .next (giveBack Config.seed s)

/-- `WR.STATUS D` (R149): no operation. -/
def execWrStatus (_d : Byte) (s : State) : Result := .next (giveNothing s)

/-- `WR.POLY D` (R151): no operation. -/
def execWrPoly (_d : Byte) (s : State) : Result := .next (giveNothing s)

/-- `WR.SEED D` (R152): no operation. -/
def execWrSeed (_d : Byte) (s : State) : Result := .next (giveNothing s)

/-- `RD.RSV` (R154): `return 0x00`. -/
def execRdRsv (_a : Addr) (s : State) : Result := .next (giveBack 0x00 s)

/-- `WR.RSV A, D` (R155): no operation. -/
def execWrRsv (_a : Addr) (_d : Byte) (s : State) : Result := .next (giveNothing s)

/-- `ILLEGAL` (R153): `raise Error(ERR_ILLEGAL)`; a read-shaped word hands back 0x00. -/
def execIllegal (w : BusWord) (s : State) : Result :=
  .next (if writeBit w then giveNothing (raiseError .illegal s) else giveBack 0x00 (raiseError .illegal s))

end Sys2Proof.Machine
end

