-- ==== Sys2Proof/Machine/Commands.lean ====
section
/-! DEFINITION. The commands (43_commands.md), one meaning each. "Every check in the pseudocode is made in the order written,
and the first one that fails raises its error. A command that raises an error changes nothing else." Like every write, a
command hands back nothing. -/

namespace Sys2Proof.Machine

/-- `CMD.NOP` (R170): no operation. -/
def execCmdNop (s : State) : Result := .next (giveNothing s)

/-- `CMD.START` (R171): a new derivation in run-all mode; refused while `BUSY = 1`. -/
def execCmdStart (s : State) : Result :=
  .next (giveNothing (if s.busy then raiseError .busy s else enableEngine .all (freshDerivation s)))

/-- `CMD.INIT` (R172): a new derivation, not run; refused while `BUSY = 1`. -/
def execCmdInit (s : State) : Result :=
  .next (giveNothing (if s.busy then raiseError .busy s else freshDerivation s))

/-- `CMD.STEP` (R173): the next stage alone; refused while `BUSY = 1`, and when all six stages are done. -/
def execCmdStep (s : State) : Result :=
  .next (giveNothing
    (if s.busy then raiseError .busy s
     else if s.stage = 6 then raiseError .seq s
     else enableEngine .one s))

/-- `CMD.CLEAR` (R174): abort and soft reset; accepted in every state, keeps `ID`. -/
def execCmdClear (s : State) : Result := .next (giveNothing (withdrawAndForgive (freshDerivation s)))

/-- `CMD.RSV` (R175): `raise Error(ERR_ILLEGAL)` in every state. -/
def execCmdRsv (_d : Byte) (s : State) : Result := .next (giveNothing (raiseError .illegal s))

end Sys2Proof.Machine
end

