-- ==== Sys2Proof/Machine/Dispatch.lean ====
section
/-! DEFINITION. One arm per instruction: which meaning an instruction has (30_encoding.md R77). -/

namespace Sys2Proof.Machine

/-- One atomic host step: the instruction's effect (R57, R58). -/
def exec (i : Instr) (s : State) : Host.Outcome State Fault Refusal :=
  match i with
  | .rdId k => Sys2Proof.Machine.execRdId k s
  | .wrId k d => Sys2Proof.Machine.execWrId k d s
  | .rdLic k => Sys2Proof.Machine.execRdLic k s
  | .wrLic k d => Sys2Proof.Machine.execWrLic k d s
  | .rdWb k => Sys2Proof.Machine.execRdWb k s
  | .wrWb k d => Sys2Proof.Machine.execWrWb k d s
  | .rdCmd => Sys2Proof.Machine.execRdCmd s
  | .rdStatus => Sys2Proof.Machine.execRdStatus s
  | .rdPoly => Sys2Proof.Machine.execRdPoly s
  | .rdSeed => Sys2Proof.Machine.execRdSeed s
  | .wrStatus d => Sys2Proof.Machine.execWrStatus d s
  | .wrPoly d => Sys2Proof.Machine.execWrPoly d s
  | .wrSeed d => Sys2Proof.Machine.execWrSeed d s
  | .rdRsv a => Sys2Proof.Machine.execRdRsv a s
  | .wrRsv a d => Sys2Proof.Machine.execWrRsv a d s
  | .cmdNop => Sys2Proof.Machine.execCmdNop s
  | .cmdStart => Sys2Proof.Machine.execCmdStart s
  | .cmdInit => Sys2Proof.Machine.execCmdInit s
  | .cmdStep => Sys2Proof.Machine.execCmdStep s
  | .cmdClear => Sys2Proof.Machine.execCmdClear s
  | .cmdRsv d => Sys2Proof.Machine.execCmdRsv d s
  | .illegal w => Sys2Proof.Machine.execIllegal w s

end Sys2Proof.Machine
end

