-- ==== Sys2Proof/Machine/Environment.lean ====
section
/-! DEFINITION. What each event of the schedule does: the host's bus word, the engine's turn and the reset input
(20_memory.md R58, 70_reset_and_hazards.md R230). -/

namespace Sys2Proof.Machine

/-- The host issues `w`: its decoded instruction executes atomically (R58). While reset stays asserted no bus word is
performed (R230). -/
def hostTurn (w : BusWord) (s : State) : Result :=
  if s.resetHeld then .next (overlapReset (writeBit w) s) else exec (decode w) s

/-- One event. -/
def perform (e : Event) (s : State) : Result :=
  match e with
  | .word w => hostTurn w s
  | .engine => engineTurn s
  | .resetAssert => .next (resetEngine s)
  | .resetRelease => .next (releaseReset s)

/-- The schedule's next event, with the rest of the schedule left to come. When the schedule is used up, no other agent does
anything, so the engine takes the stage that is pending (weak fairness, R60), and an idle engine stays as it is (R213; log 4). -/
def takeTurn (s : State) : Result :=
  match s.schedule with
  | [] => engineTurn s
  | e :: rest => perform e { s with schedule := rest }

/-- The 16-bit word whose bits are those of `w`, with the bits above `nbits` zero. -/
def placedWord (nbits w : Nat) : BusWord := BitVec.ofNat 16 (w % 2 ^ nbits)

/-- `w` becomes the host's next transaction, and reset is released, so that the next step performs it (log 9). -/
def placeWord (w : BusWord) (s : State) : State :=
  { s with resetHeld := false, schedule := .word w :: s.schedule }

end Sys2Proof.Machine
end

