-- ==== Sys2Proof/Machine/Step.lean ====
section
/-! DEFINITION. One step of the machine: one atomic step of one agent (20_memory.md R57, R58). -/

namespace Sys2Proof.Machine

/-- The next step of the whole: the schedule says whose it is. -/
def step (s : State) : Host.Outcome State Fault Refusal := takeTurn s

/-- `s` with the instruction word `w` of `nbits` bits where the next step takes its instruction from: the head of the schedule.
The engine fetches nothing and stores no program (R64); the host supplies every word (log 9). -/
def State.withFetchWord (s : State) (nbits w : Nat) : State := placeWord (placedWord nbits w) s

end Sys2Proof.Machine
end

