-- ==== Sys2Proof/Machine/Asm.lean ====
section
/-! DEFINITION. The host's assembly language (30_encoding.md R81-R83): the instruction forms and their words, the macros and the
words they expand to, the disassembler, and the reader of a program's text. It says how host words are written; the engine
never sees it (D25). -/

namespace Sys2Proof.Asm

/-- The register names of R81. -/
inductive Reg where
  | id (k : Index)
  | lic (k : Index)
  | wb (k : Index)
  | cmd
  | status
  | poly
  | seed
  deriving DecidableEq, Repr

/-- A register's address (R51). -/
def Reg.addr : Reg → Addr
  | .id k => idAddr k
  | .lic k => licAddr k
  | .wb k => wbAddr k
  | .cmd => cmdAddr
  | .status => statusAddr
  | .poly => polyAddr
  | .seed => seedAddr

/-- The command names of R81. -/
inductive CmdName where
  | nop
  | start
  | init
  | step
  | clear
  deriving DecidableEq, Repr

/-- A command's code (R74). -/
def CmdName.code : CmdName → Byte
  | .nop => 0x00
  | .start => 0x01
  | .init => 0x02
  | .step => 0x03
  | .clear => 0x04

/-- One line of the assembly forms of R81. -/
inductive Line where
  /-- `rd <register>` -/
  | rd (r : Reg)
  /-- `rd 0x<A>` -/
  | rdAt (a : Addr)
  /-- `wr <register>, <imm8>`. R81 gives it for `ID<k>` and says that "`wr LIC<k>, v` and similar spellings are legal and
  assemble to the ignored writes". That `wr CMD, <imm8>` is one too, and is the command's word, is the model's choice (DESIGN
  CHOICE, safe; log 20). -/
  | wr (r : Reg) (d : Byte)
  /-- `wr 0x<A>, <imm8>` -/
  | wrAt (a : Addr) (d : Byte)
  /-- `cmd NOP` and the other names -/
  | cmd (c : CmdName)
  /-- `cmd <imm8>` -/
  | cmdCode (d : Byte)
  /-- `.word <imm16>` -/
  | word (w : BusWord)
  deriving DecidableEq, Repr

/-- The word of a line (R81). -/
def assemble : Line → BusWord
  | .rd r => readWord r.addr
  | .rdAt a => readWord a
  | .wr r d => writeWord r.addr d
  | .wrAt a d => writeWord a d
  | .cmd c => writeWord cmdAddr c.code
  | .cmdCode d => writeWord cmdAddr d
  | .word w => w

/-! ## Macros (R82) -/

/-- A statement of a program: a line or one of R82's macros. -/
inductive Stmt where
  | line (l : Line)
  | setid (bytes : Bytes6)
  | wait
  | getlic
  | derive (bytes : Bytes6)
  | trace
  deriving DecidableEq, Repr

/-- `setid b0:...:b5`: `wr ID0, b0` to `wr ID5, b5`, in that order. -/
def setidWords (bytes : Bytes6) : List BusWord :=
  (List.finRange 6).map fun k => assemble (.wr (.id k) bytes[k])

/-- `wait` with `polls` reads of STATUS that show BUSY before the one that does not: one `rd STATUS` or more. -/
def waitWords (polls : Nat) : List BusWord := List.replicate (polls + 1) (assemble (.rd .status))

/-- `getlic`: `rd LIC0` to `rd LIC5`. -/
def getlicWords : List BusWord := (List.finRange 6).map fun k => assemble (.rd (.lic k))

/-- Iteration `i` of `trace`: `cmd STEP`, `wait`, `rd WB0` to `rd WB5`, `rd LIC<i>`. -/
def traceRound (polls : Nat) (i : Index) : List BusWord :=
  assemble (.cmd .step) :: waitWords polls ++ ((List.finRange 6).map fun k => assemble (.rd (.wb k))) ++
    [assemble (.rd (.lic i))]

/-- The words a statement expands to. How often the n-th `wait` polls is decided as the host runs (R251), so it is given. -/
def Stmt.words (polls : Nat → Nat) : Stmt → List BusWord
  | .line l => [assemble l]
  | .setid bytes => setidWords bytes
  | .wait => waitWords (polls 0)
  | .getlic => getlicWords
  | .derive bytes => setidWords bytes ++ [assemble (.cmd .start)] ++ waitWords (polls 0) ++ getlicWords
  | .trace => assemble (.cmd .init) :: (List.finRange 6).flatMap fun (i : Index) => traceRound (polls i.val) i

/-! ## The disassembler (R83) -/

/-- The name of the register at an address, if it has one (R51). -/
def regAt (a : Addr) : Option Reg :=
  match addrGroup a, regIndex a with
  | 0b00, some k => some (.id k)
  | 0b01, some k => some (.lic k)
  | 0b10, some k => some (.wb k)
  | 0b11, _ =>
    match addrSlot a with
    | 0 => some .cmd
    | 1 => some .status
    | 2 => some .poly
    | 3 => some .seed
    | _ => none
  | _, _ => none

/-- The name of a command code, if it has one (R74). -/
def cmdAt (d : Byte) : Option CmdName :=
  match d with
  | 0x00 => some .nop
  | 0x01 => some .start
  | 0x02 => some .init
  | 0x03 => some .step
  | 0x04 => some .clear
  | _ => none

/-- The line a word is printed as: a read word's `D` is not shown (R83). Which of a word's equal spellings is printed, R83
leaves open: here a register's name before its address, a command's name before its code, `cmd` before `wr` at the command
port, and `.word` for an illegal word alone (DESIGN CHOICE, safe; log 21). -/
def disassemble (w : BusWord) : Line :=
  let a := addrField w
  let d := dataField w
  if rsvField w ≠ 0b00 then .word w
  else if writeBit w = false then
    match regAt a with
    | some r => .rd r
    | none => .rdAt a
  else
    match regAt a with
    | some .cmd =>
      match cmdAt d with
      | some c => .cmd c
      | none => .cmdCode d
    | some r => .wr r d
    | none => .wrAt a d

/-! ## The text of a program (R81): one statement a line, `#` starts a comment, register names in either case

R81 gives the forms and no grammar. What the reader below settles beyond it is the model's choice (DESIGN CHOICE, safe; log
18): the separators, `;` between statements of one line (programs P3 and P4 of 95_test_vectors.md write so), the case of hex
digits, decimal as well as hex for `<imm16>`, and the refusal of what it cannot read. -/

/-- A digit's value in base 16, either case. -/
def hexDigit (c : Char) : Option Nat :=
  if '0' ≤ c ∧ c ≤ '9' then some (c.toNat - 48)
  else if 'a' ≤ c ∧ c ≤ 'f' then some (c.toNat - 87)
  else if 'A' ≤ c ∧ c ≤ 'F' then some (c.toNat - 55)
  else none

/-- The number the digits write in a base, most significant first; none where one is no digit of the base. -/
def digitsValue (base : Nat) (digits : List Char) : Option Nat :=
  digits.foldl (fun acc c =>
    match acc, hexDigit c with
    | some n, some d => if d < base then some (n * base + d) else none
    | _, _ => none) (some 0)

/-- A literal: `0x..` or decimal. -/
def literal : List Char → Option Nat
  | '0' :: 'x' :: d :: ds => digitsValue 16 (d :: ds)
  | d :: ds => digitsValue 10 (d :: ds)
  | [] => none

/-- `<imm8>`: 0 to 255. -/
def imm8 (t : List Char) : Option Byte :=
  match literal t with
  | some n => if n < 256 then some (BitVec.ofNat 8 n) else none
  | none => none

/-- `<imm16>`: 0 to 65535. -/
def imm16 (t : List Char) : Option BusWord :=
  match literal t with
  | some n => if n < 65536 then some (BitVec.ofNat 16 n) else none
  | none => none

/-- `0x<A>`: any of the 32 addresses, in hex. -/
def addrText : List Char → Option Addr
  | '0' :: 'x' :: d :: ds =>
    match digitsValue 16 (d :: ds) with
    | some n => if n < 32 then some (BitVec.ofNat 5 n) else none
    | none => none
  | _ => none

/-- A register index digit, 0 to 5. -/
def indexText (c : Char) : Option Index :=
  match hexDigit c with
  | some n => if h : n < 6 then some ⟨n, h⟩ else none
  | none => none

/-- A register's name, in either case. -/
def regText (t : List Char) : Option Reg :=
  match t.map Char.toUpper with
  | ['I', 'D', k] => (indexText k).map .id
  | ['L', 'I', 'C', k] => (indexText k).map .lic
  | ['W', 'B', k] => (indexText k).map .wb
  | ['C', 'M', 'D'] => some .cmd
  | ['S', 'T', 'A', 'T', 'U', 'S'] => some .status
  | ['P', 'O', 'L', 'Y'] => some .poly
  | ['S', 'E', 'E', 'D'] => some .seed
  | _ => none

/-- A command's name. -/
def cmdText (t : List Char) : Option CmdName :=
  match t with
  | ['N', 'O', 'P'] => some .nop
  | ['S', 'T', 'A', 'R', 'T'] => some .start
  | ['I', 'N', 'I', 'T'] => some .init
  | ['S', 'T', 'E', 'P'] => some .step
  | ['C', 'L', 'E', 'A', 'R'] => some .clear
  | _ => none

/-- `b0:b1:b2:b3:b4:b5`: six pairs of hex digits, byte 0 first (R53, R82). -/
def bytesText (t : List Char) : Option Bytes6 :=
  match t with
  | [a0, b0, ':', a1, b1, ':', a2, b2, ':', a3, b3, ':', a4, b4, ':', a5, b5] =>
    match digitsValue 16 [a0, b0], digitsValue 16 [a1, b1], digitsValue 16 [a2, b2], digitsValue 16 [a3, b3],
        digitsValue 16 [a4, b4], digitsValue 16 [a5, b5] with
    | some v0, some v1, some v2, some v3, some v4, some v5 =>
      some #v[BitVec.ofNat 8 v0, BitVec.ofNat 8 v1, BitVec.ofNat 8 v2, BitVec.ofNat 8 v3, BitVec.ofNat 8 v4,
        BitVec.ofNat 8 v5]
    | _, _, _, _, _, _ => none
  | _ => none

/-- The token read so far (its letters in reverse), put before the tokens that follow. -/
def endToken (letters : List Char) (rest : List (List Char)) : List (List Char) :=
  match letters with
  | [] => rest
  | _ => letters.reverse :: rest

/-- The tokens of a line: parted by blanks, a comma and a semicolon each a token of its own, `#` ends the line (log 18). -/
def tokens (letters : List Char) : List Char → List (List Char)
  | [] => endToken letters []
  | c :: rest =>
    if c = '#' then endToken letters []
    else if c = ' ' ∨ c = '\t' ∨ c = '\r' then endToken letters (tokens [] rest)
    else if c = ',' ∨ c = ';' then endToken letters ([c] :: tokens [] rest)
    else tokens (c :: letters) rest

/-- The operand of `rd`, or the target of `wr`: a register's name or an address. -/
def targetText (t : List Char) : Option (Reg ⊕ Addr) :=
  match regText t with
  | some r => some (.inl r)
  | none => (addrText t).map .inr

/-- The tokens cut at each semicolon: the tokens of each statement of a line (log 18). -/
def statements : List (List Char) → List (List (List Char))
  | [] => [[]]
  | t :: rest =>
    if t = [';'] then [] :: statements rest
    else
      match statements rest with
      | s :: ss => (t :: s) :: ss
      | [] => [[t]]

/-- The statement the tokens write; none where they write none. `wr CMD, <imm8>` is read as a line (log 20). -/
def stmtOfTokens : List (List Char) → Option Stmt
  | [['r', 'd'], t] =>
    (targetText t).map fun
      | .inl r => .line (.rd r)
      | .inr a => .line (.rdAt a)
  | [['w', 'r'], t, [','], v] =>
    match targetText t, imm8 v with
    | some (.inl r), some d => some (.line (.wr r d))
    | some (.inr a), some d => some (.line (.wrAt a d))
    | _, _ => none
  | [['c', 'm', 'd'], t] =>
    match cmdText t with
    | some c => some (.line (.cmd c))
    | none => (imm8 t).map fun d => .line (.cmdCode d)
  | [['.', 'w', 'o', 'r', 'd'], t] => (imm16 t).map fun w => .line (.word w)
  | [['s', 'e', 't', 'i', 'd'], t] => (bytesText t).map .setid
  | [['w', 'a', 'i', 't']] => some .wait
  | [['g', 'e', 't', 'l', 'i', 'c']] => some .getlic
  | [['d', 'e', 'r', 'i', 'v', 'e'], t] => (bytesText t).map .derive
  | [['t', 'r', 'a', 'c', 'e']] => some .trace
  | _ => none

/-- The statements written by lists of tokens, an empty list writing none; none where a list cannot be read. -/
def readStatements : List (List (List Char)) → Option (List Stmt)
  | [] => some []
  | [] :: rest => readStatements rest
  | (t :: ts) :: rest =>
    match stmtOfTokens (t :: ts), readStatements rest with
    | some x, some xs => some (x :: xs)
    | _, _ => none

/-- The statements of a program's lines; none where a line that is not blank cannot be read. -/
def program (lines : List (List Char)) : Option (List Stmt) :=
  readStatements (lines.flatMap fun l => statements (tokens [] l))

/-- The bus words of a program; the n-th statement's waits poll as `polls n` says. -/
def programWords (polls : Nat → Nat → Nat) (stmts : List Stmt) : List BusWord :=
  (stmts.zipIdx.map fun x => x.1.words (polls x.2)).flatten

end Sys2Proof.Asm
end

