-- ==== Sys2Proof/Machine/RegMap.lean ====
section
/-! DEFINITION. A bus transaction as the register address map describes it (20_memory.md R51, R52; 30_encoding.md R70-R73, R79),
without the list of mnemonics: the second description of the host's interface in the spec, held against the first in a claim. -/

namespace Sys2Proof.Machine

/-- `RegWrite(a, v)` for every address but the command port's, by R51's column "write effect": `ID<k>` takes the byte or refuses
it, every other write is ignored. -/
def regWrite (a : Addr) (v : Byte) (s : State) : State :=
  match addrGroup a, regIndex a with
  | 0b00, some k => if s.active then raiseError .busy s else writeId k v s
  | _, _ => s

/-- One bus word by the register map: illegal words first (R79), then reads (R71), the command port (R73) and writes (R72). -/
def busTransaction (w : BusWord) (s : State) : Result :=
  if rsvField w ≠ 0b00 then
    .next { raiseError .illegal s with reply := if writeBit w then none else some 0x00 }
  else if writeBit w = false then .next (giveBack (regRead (addrField w) s) s)
  else if addrField w = cmdAddr then exec (decodeCommand (dataField w)) s
  else .next (giveNothing (regWrite (addrField w) (dataField w) s))

end Sys2Proof.Machine
end

