-- ==== Sys2Proof/Safety.lean ====
section
/-! DEFINITION. The terms the claims are stated in: runs, the schedule as the world's choice, whose step is next, the invariants of
10_state.md R37, and what counts as a safe run. -/

namespace Sys2Proof.Machine

/-- `k` steps of the machine. -/
abbrev runFor (k : Nat) (s : State) : Result := Host.Core.run Sys2Proof.core k s

/-- `s` with the events to come as given. -/
def State.facing (s : State) (es : List Event) : State := { s with schedule := es }

/-- The run through all of `es` from `s`, one step an event. -/
def runThrough (es : List Event) (s : State) : Result := runFor es.length (s.facing es)

/-- A state that some schedule leads to from reset (R58: any interleaving is a possible execution). -/
def Reachable (s : State) : Prop := ∃ es n, runFor n (State.reset.facing es) = .next s

/-- A safe run: no number of steps ends in a fault or a refusal. -/
def Safe (s : State) : Prop := ∀ n, ∃ t, runFor n s = .next t

/-! ## Whose step is next -/

/-- The instruction the next step executes, if it is the host's and reset is released. -/
def dueInstr (s : State) : Option Instr :=
  match s.resetHeld, s.schedule with
  | false, .word w :: _ => some (decode w)
  | _, _ => none

/-- The next step is the reset step. -/
def dueReset (s : State) : Bool := s.schedule.head? == some .resetAssert

/-- The next step is an enabled stage step (R120). -/
def dueStage (s : State) : Bool :=
  s.busy && !s.resetHeld && (s.schedule == [] || s.schedule.head? == some .engine)

/-! ## The invariants of R37 -/

/-- Items 1 to 6 of R37. -/
structure Consistent (s : State) : Prop where
  /-- 1: `0 <= STAGE <= 6`. -/
  stage_range : s.stage.toNat ≤ 6
  /-- 2: `BUSY == 1` implies `STAGE <= 5`. -/
  busy_range : s.busy = true → s.stage.toNat ≤ 5
  /-- 3: `DONE == 1` exactly when `STAGE == 6`. -/
  done_iff : s.done = true ↔ s.stage = 6
  /-- 4: for every `k >= STAGE`, `WB[k] == TEMPLATE[k]` and `LIC[k] == 0x00`. -/
  ahead : ∀ k : Index, s.stage.toNat ≤ k.val → s.wb[k] = Config.template[k] ∧ s.lic[k] = 0x00
  /-- 5: for every `k < STAGE`, `LIC[k] == crc8(WB[0..k] ++ TEMPLATE[k+1..5])`. -/
  produced : ∀ k : Index, k.val < s.stage.toNat → s.lic[k] = crc8 (mixed s.wb k)
  /-- 6: if `STAGE` is 1 to 5, then `WB[0..STAGE-1] == ID[0..STAGE-1]`. -/
  copied : s.partDone = true → ∀ k : Index, k.val < s.stage.toNat → s.wb[k] = s.id[k]

/-! ## What the host can and cannot tell apart -/

/-- The fields of the two states are the same but for `MODE`. -/
def SameButMode (s t : State) : Prop := t = { s with mode := t.mode }

/-- The fields of the two states are the same but for `ERRC` and the last byte handed back. -/
def SameButError (s t : State) : Prop := t = { s with errc := t.errc, reply := t.reply }

/-! ## Errors (60_exceptions.md R201) -/

/-- `ACTIVE` as R201 and R141 write it: `BUSY == 1 or (1 <= STAGE <= 5)`. -/
def ActiveByRule (s : State) : Prop := s.busy = true ∨ (1 ≤ s.stage.toNat ∧ s.stage.toNat ≤ 5)

/-- By R201's table of instructions and conditions, in R203's order: `i` raises `c` in the state `s`. -/
def Raises (i : Instr) (s : State) (c : ErrCode) : Prop :=
  match c with
  | .none => False
  | .illegal => (∃ w, i = .illegal w) ∨ ∃ d, i = .cmdRsv d
  | .busy =>
    ((i = .cmdStart ∨ i = .cmdInit ∨ i = .cmdStep) ∧ s.busy = true) ∨ ((∃ k d, i = .wrId k d) ∧ ActiveByRule s)
  | .seq => i = .cmdStep ∧ s.busy = false ∧ s.stage = 6

/-! ## Kinds of events -/

/-- The word begins, initialises or aborts a derivation: `CMD.START`, `CMD.INIT` or `CMD.CLEAR`. -/
def restarts (w : BusWord) : Bool :=
  decode w == .cmdStart || decode w == .cmdInit || decode w == .cmdClear

/-- The event neither aborts a derivation nor resets the engine. -/
def keepsRunning : Event → Bool
  | .word w => decode w != .cmdClear
  | .engine => true
  | .resetAssert => false
  | .resetRelease => true

/-- The event leaves a finished derivation's result in place (R61). -/
def keepsResult : Event → Bool
  | .word w => !restarts w
  | .engine => true
  | .resetAssert => false
  | .resetRelease => true

/-- How many of the events are turns of the engine. -/
def engineTurns (es : List Event) : Nat := es.count .engine

/-- The word numbered `base + 0x100 * k + D`: the `k`-th address from the word `base` on, with data `D` (R77). -/
def wordAt (base k : Nat) (d : Byte) : BusWord := BitVec.ofNat 16 (base + 0x100 * k + d.toNat)

/-- The host word of `i`, as an event. -/
def hostEvent (i : Instr) : Event := .word (encode i)

/-- Six turns of the host and the engine: a `CMD.STEP`, then its stage. -/
def sixSteps : List Event := (List.replicate 6 [hostEvent .cmdStep, .engine]).flatten

/-- `n` polls of `STATUS`. -/
def polls (n : Nat) : List Event := List.replicate n (hostEvent .rdStatus)

/-- Six `CMD.STEP`s, each waited out as R82's `wait` does: step `i` is polled `early i` times before its stage is taken, and
`late i` times and once more after it. -/
def waitedSteps (early late : Index → Nat) : List Event :=
  (List.finRange 6).flatMap fun i => hostEvent .cmdStep :: polls (early i) ++ .engine :: polls (late i + 1)

/-! ## Bytes as polynomials (40_checksum.md R107) -/

/-- The byte `v` as the polynomial `sum v[i] x^i` over GF(2). -/
noncomputable def bytePoly (v : Byte) : Polynomial (ZMod 2) :=
  ∑ i ∈ Finset.range 8, if v.getLsbD i then Polynomial.X ^ i else 0

/-- `G(x) = x^8 + x^2 + x + 1`. -/
noncomputable def genPoly : Polynomial (ZMod 2) := Polynomial.X ^ 8 + Polynomial.X ^ 2 + Polynomial.X + 1

/-- `M(x) = sum buf[j](x) * x^(8*(5-j))`: the buffer with element 0 most significant. -/
noncomputable def bufferPoly (buf : Bytes6) : Polynomial (ZMod 2) :=
  ∑ j : Index, bytePoly buf[j] * Polynomial.X ^ (8 * (5 - j.val))

end Sys2Proof.Machine
end

