-- ==== Sys2Proof/Certificates/Slice0/Obligations.lean ====
section
/-! DEFINITION. The statements about the engine, made from the spec's numbered rules: encoding, datapath, cascade, one for every
host instruction, errors, reset, and the rules of the whole machine. -/

open Sys2Proof Sys2Proof.Machine

/-! ## Encoding (30_encoding.md) -/

/-- Decoding the word of a well-formed instruction gives it back: no field of an encoding is lost. -/
def Obligations.DecodeOfEncode : Prop :=
  ∀ i : Instr, i.wf = true → decode (encode i) = i

/-- Every word decodes to a well-formed instruction, and is that instruction's word but for a read's ignored data. -/
def Obligations.EncodeOfDecode : Prop :=
  ∀ w : BusWord,
    (decode w).wf = true ∧ encode (decode w) = canonicalWord w ∧ decode (canonicalWord w) = decode w

/-- R77: the opcode map by ranges of words. -/
def Obligations.OpcodeMapByRanges : Prop :=
  (∀ (k : Index) (d : Byte),
    decode (wordAt 0x0000 k d) = .rdId k ∧ decode (wordAt 0x0800 k d) = .rdLic k ∧
    decode (wordAt 0x1000 k d) = .rdWb k ∧ decode (wordAt 0x8000 k d) = .wrId k d ∧
    decode (wordAt 0x8800 k d) = .wrLic k d ∧ decode (wordAt 0x9000 k d) = .wrWb k d) ∧
  (∀ d : Byte,
    decode (wordAt 0x1800 0 d) = .rdCmd ∧ decode (wordAt 0x1900 0 d) = .rdStatus ∧
    decode (wordAt 0x1A00 0 d) = .rdPoly ∧ decode (wordAt 0x1B00 0 d) = .rdSeed ∧
    decode (wordAt 0x9900 0 d) = .wrStatus d ∧ decode (wordAt 0x9A00 0 d) = .wrPoly d ∧
    decode (wordAt 0x9B00 0 d) = .wrSeed d) ∧
  (∀ a ∈ ([0x06, 0x07, 0x0E, 0x0F, 0x16, 0x17, 0x1C, 0x1D, 0x1E, 0x1F] : List Addr), ∀ d : Byte,
    decode (wordAt 0x0000 a.toNat d) = .rdRsv a ∧ decode (wordAt 0x8000 a.toNat d) = .wrRsv a d) ∧
  (decode 0x9800 = .cmdNop ∧ decode 0x9801 = .cmdStart ∧ decode 0x9802 = .cmdInit ∧ decode 0x9803 = .cmdStep ∧
    decode 0x9804 = .cmdClear ∧ ∀ d : Byte, 0x05 ≤ d.toNat → decode (wordAt 0x9800 0 d) = .cmdRsv d) ∧
  (∀ w : BusWord, w.extractLsb' 13 2 ≠ 0b00 → decode w = .illegal w) ∧
  (opcodeTable.map OpcodeRow.mnemonic).dedup.length = 22

/-- The rows of the opcode table partition the words: each word belongs to exactly one row, and that row's mnemonic is the
decoded instruction's. -/
def Obligations.OpcodeTablePartitionsWords : Prop :=
  opcodeTable.length = 65 ∧
  ∀ w : BusWord, (opcodeTable.filter fun r => r.covers w).map OpcodeRow.mnemonic = [(decode w).mnemonic]

/-- Words written out from the spec's encodings decode to their instructions (95_test_vectors.md section 2.6). -/
def Obligations.SampleWordsDecode : Prop :=
  decode 0x05FF = .rdId 5 ∧ decode 0x0D00 = .rdLic 5 ∧ decode 0x15AA = .rdWb 5 ∧ decode 0x18AB = .rdCmd ∧
  decode 0x0600 = .rdRsv 0x06 ∧ decode 0x85CF = .wrId 5 0xCF ∧ decode 0x88FF = .wrLic 0 0xFF ∧
  decode 0x9804 = .cmdClear ∧ decode 0x98FF = .cmdRsv 0xFF ∧ decode 0x9A1D = .wrPoly 0x1D ∧
  decode 0x9FAA = .wrRsv 0x1F 0xAA ∧ decode 0x2000 = .illegal 0x2000

/-- R71: a read word hands back `RegRead(A)`, changes nothing, its data field does not matter, and the assembler leaves it 0. -/
def Obligations.ReadWordHandsBackRegister : Prop :=
  ∀ (a : Addr) (d : Byte) (s : State),
    exec (decode (busWord false 0b00 a d)) s = .next { s with reply := some (regRead a s) } ∧
    decode (busWord false 0b00 a d) = decode (BitVec.ofNat 16 (0x100 * a.toNat)) ∧
    Asm.assemble (.rdAt a) = BitVec.ofNat 16 (0x100 * a.toNat) ∧
    ∀ r : Asm.Reg, (Asm.assemble (.rd r)).extractLsb' 0 8 = 0x00

/-- R52: what a read of each of the 32 addresses hands back. -/
def Obligations.RegReadByAddress : Prop :=
  ∀ s : State,
    (∀ k : Index, regRead (BitVec.ofNat 5 k) s = s.id[k] ∧ regRead (BitVec.ofNat 5 (0x08 + k)) s = s.lic[k] ∧
      regRead (BitVec.ofNat 5 (0x10 + k)) s = s.wb[k]) ∧
    regRead 0x18 s = 0x00 ∧ regRead 0x19 s = s.status ∧ regRead 0x1A s = 0x07 ∧ regRead 0x1B s = 0xCD ∧
    ∀ a ∈ ([0x06, 0x07, 0x0E, 0x0F, 0x16, 0x17, 0x1C, 0x1D, 0x1E, 0x1F] : List Addr), regRead a s = 0x00

/-- The two descriptions of the host's interface agree: the decoder with one meaning a mnemonic, and the register address map. -/
def Obligations.InstructionsRefineRegisterMap : Prop :=
  ∀ (w : BusWord) (s : State), exec (decode w) s = busTransaction w s

/-- The disassembler's line assembles to the word again, but for a read's data, which is not shown. -/
def Obligations.DisassembledWordAssembles : Prop :=
  ∀ w : BusWord,
    Asm.assemble (Asm.disassemble w) = canonicalWord w ∧ Asm.disassemble (canonicalWord w) = Asm.disassemble w

/-- The words of every assembly form of R81 and of the macros' expansions. How often `wait` polls is a parameter (the model's
choice: notes/assumptions 18), and so is it the model's choice that `wr CMD` is a legal spelling (notes/assumptions 20). -/
def Obligations.AssemblyFormsAndMacros : Prop :=
  (∀ (k : Index) (d : Byte),
    Asm.assemble (.rd (.id k)) = wordAt 0x0000 k 0 ∧ Asm.assemble (.rd (.lic k)) = wordAt 0x0800 k 0 ∧
    Asm.assemble (.rd (.wb k)) = wordAt 0x1000 k 0 ∧ Asm.assemble (.wr (.id k) d) = wordAt 0x8000 k d ∧
    Asm.assemble (.wr (.lic k) d) = wordAt 0x8800 k d ∧ Asm.assemble (.wr (.wb k) d) = wordAt 0x9000 k d) ∧
  (∀ d : Byte, Asm.assemble (.wr .status d) = wordAt 0x9900 0 d ∧ Asm.assemble (.wr .poly d) = wordAt 0x9A00 0 d ∧
    Asm.assemble (.wr .seed d) = wordAt 0x9B00 0 d ∧ Asm.assemble (.wr .cmd d) = wordAt 0x9800 0 d) ∧
  Asm.assemble (.cmd .nop) = 0x9800 ∧ Asm.assemble (.cmd .start) = 0x9801 ∧ Asm.assemble (.cmd .init) = 0x9802 ∧
  Asm.assemble (.cmd .step) = 0x9803 ∧ Asm.assemble (.cmd .clear) = 0x9804 ∧
  Asm.assemble (.rd .cmd) = 0x1800 ∧ Asm.assemble (.rd .status) = 0x1900 ∧ Asm.assemble (.rd .poly) = 0x1A00 ∧
  Asm.assemble (.rd .seed) = 0x1B00 ∧
  (∀ (a : Addr) (d : Byte), Asm.assemble (.rdAt a) = wordAt 0x0000 a.toNat 0 ∧
    Asm.assemble (.wrAt a d) = wordAt 0x8000 a.toNat d ∧ Asm.assemble (.cmdCode d) = wordAt 0x9800 0 d) ∧
  (∀ w : BusWord, Asm.assemble (.word w) = w) ∧
  (∀ (b : Bytes6) (polls : Nat → Nat),
    (Asm.Stmt.setid b).words polls = (List.finRange 6).map (fun (k : Index) => wordAt 0x8000 k b[k]) ∧
    Asm.Stmt.wait.words polls = List.replicate (polls 0 + 1) 0x1900 ∧
    Asm.Stmt.getlic.words polls = [0x0800, 0x0900, 0x0A00, 0x0B00, 0x0C00, 0x0D00] ∧
    (Asm.Stmt.derive b).words polls =
      (Asm.Stmt.setid b).words polls ++ [0x9801] ++ Asm.Stmt.wait.words polls ++ Asm.Stmt.getlic.words polls ∧
    Asm.Stmt.trace.words polls =
      [0x9802] ++ (List.finRange 6).flatMap (fun (i : Index) =>
        [0x9803] ++ List.replicate (polls i + 1) 0x1900 ++ [0x1000, 0x1100, 0x1200, 0x1300, 0x1400, 0x1500] ++
          [wordAt 0x0800 i 0]))

/-! ## The checksum datapath (40_checksum.md) -/

/-- R101: the bit step, its equivalent form, and its corner cases. -/
def Obligations.BitStepShiftsAndFolds : Prop :=
  (∀ c : Byte,
    bitstep c = (((c.setWidth 9 <<< 1) ^^^ (if c.getLsbD 7 then 0x07#9 else 0x00#9)) &&& 0xFF#9).setWidth 8 ∧
    bitstep c = (c.extractLsb' 0 7 ++ 0#1) ^^^ (if c.getLsbD 7 then 0x07#8 else 0x00#8)) ∧
  bitstep 0x00 = 0x00 ∧ bitstep 0x80 = 0x07 ∧ bitstep 0x7F = 0xFE ∧ bitstep 0xFF = 0xF9 ∧ bitstep 0x01 = 0x02 ∧
  bitstep 0xCD = 0x9D

/-- R102: the byte step is eight bit steps after the byte is XORed in. -/
def Obligations.ByteStepIsEightBitSteps : Prop :=
  (∀ c b : Byte,
    bytestep c b =
      bitstep (bitstep (bitstep (bitstep (bitstep (bitstep (bitstep (bitstep (c ^^^ b)))))))) ∧
    bytestep c c = 0x00) ∧
  bytestep 0x00 0x01 = 0x07 ∧ bytestep 0x00 0x80 = 0x89 ∧ bytestep 0x00 0xFF = 0xF3 ∧ bytestep 0xCD 0x00 = 0x6D ∧
  (List.range 9).map (fun n => bitstep^[n] 0xCD) = [0xCD, 0x9D, 0x3D, 0x7A, 0xF4, 0xEF, 0xD9, 0xB5, 0x6D]

/-- R103: the checksum is six byte steps from the seed, index 0 to 5. -/
def Obligations.ChecksumFoldsSixBytes : Prop :=
  (∀ b0 b1 b2 b3 b4 b5 : Byte,
    crc8 #v[b0, b1, b2, b3, b4, b5] =
      bytestep (bytestep (bytestep (bytestep (bytestep (bytestep 0xCD b0) b1) b2) b3) b4) b5) ∧
  crc8 (Vector.replicate 6 0x00) = 0x58 ∧ crc8 (Vector.replicate 6 0xFF) = 0x10 ∧
  crc8 #v[0x19, 0x56, 0xAD, 0xC0, 0xB3, 0xF3] = 0x3A ∧ crc8 #v[0x00, 0x56, 0xAD, 0xC0, 0xB3, 0xF3] = 0xC2 ∧
  [0x00, 0x56, 0xAD, 0xC0, 0xB3, 0xF3].scanl bytestep 0xCD = [0xCD, 0x6D, 0xA1, 0x24, 0xB2, 0x07, 0xC2]

/-- R106 (marked there as the spec's own inference): the bit step is linear, so the byte step is a look-up in the 256-entry table at `c ^ b`. -/
def Obligations.ByteStepIsTableLookup : Prop :=
  (∀ a b : Byte, bitstep (a ^^^ b) = bitstep a ^^^ bitstep b) ∧
  (∀ c b : Byte, bytestep c b = bytestep 0x00 (c ^^^ b) ∧ byteTable[(c ^^^ b).toNat]? = some (bytestep c b)) ∧
  byteTable.length = 256 ∧ byteTable.take 4 = [0x00, 0x07, 0x0E, 0x09]

/-- R107 (marked there as the spec's own inference): the bit step multiplies by `x` modulo `G`, and the checksum is the remainder of `(SEED x^40 + M) x^8`. -/
def Obligations.ChecksumIsPolynomialRemainder : Prop :=
  (∀ c : Byte, bytePoly (bitstep c) = (bytePoly c * Polynomial.X) %ₘ genPoly) ∧
  ∀ buf : Bytes6,
    bytePoly (crc8 buf) =
      ((bytePoly Config.seed * Polynomial.X ^ 40 + bufferPoly buf) * Polynomial.X ^ 8) %ₘ genPoly

/-- R108 (marked there as the spec's own inference): the checksum is affine, its linear part is the seed-0 checksum, and that is not 0 on a buffer with exactly one nonzero
byte; so changing any one byte of the buffer changes the checksum. -/
def Obligations.ChecksumIsAffine : Prop :=
  (∀ p q : Bytes6, crc8 p ^^^ crc8 q = crcFrom 0x00 (Vector.zipWith (· ^^^ ·) p q).toList) ∧
  (∀ p q : Bytes6,
    crcFrom 0x00 (Vector.zipWith (· ^^^ ·) p q).toList = crcFrom 0x00 p.toList ^^^ crcFrom 0x00 q.toList) ∧
  (∀ (k : Index) (v : Byte), v ≠ 0x00 → crcFrom 0x00 (zeros.set k v).toList ≠ 0x00) ∧
  ∀ (p : Bytes6) (k : Index) (v : Byte), v ≠ p[k] → crc8 (p.set k v) ≠ crc8 p

/-! ## The cascade (41_cascade.md) -/

/-- R120: the stage step, enabled exactly when `BUSY == 1` (and reset released): every field it writes, and no other. A turn
that comes while it is not enabled answers the same state, and a stage leaves the last reply: these two are the model's choice
(notes/assumptions 5 and 6). -/
def Obligations.StageStepEffect : Prop :=
  (∀ (s : State) (k : Index), s.stage = BitVec.ofNat 3 k.val → s.resetHeld = false → s.busy = true →
    engineTurn s = .next { s with
      wb := s.wb.set k s.id[k]
      lic := s.lic.set k (crc8 (s.wb.set k s.id[k]))
      stage := BitVec.ofNat 3 (k.val + 1)
      done := if k.val + 1 = 6 then true else s.done
      busy := if s.mode = .one ∨ k.val + 1 = 6 then false else true }) ∧
  (∀ s : State, s.busy = false → engineTurn s = .next s) ∧
  ∃ t, engineTurn { State.reset with id := #v[0x40, 0x91, 0x51, 0x64, 0x39, 0xCF], busy := true, mode := .all } = .next t ∧
    t.wb[0] = 0x40 ∧ t.lic[0] = 0xB4 ∧ t.stage = 1

/-- R132 (marked there as the spec's own inference): after stage `k` the host reads the buffer of iteration `k` and the byte it produced. -/
def Obligations.SnapshotAfterStage : Prop :=
  ∀ (s : State) (k : Index), Consistent s → s.stage = BitVec.ofNat 3 k.val → s.busy = true → s.resetHeld = false →
    ∃ t, engineTurn s = .next t ∧ t.stage = BitVec.ofNat 3 (k.val + 1) ∧
      (∀ j : Index,
        exec (.rdWb j) t = .next { t with reply := some (if j ≤ k then s.id[j] else Config.template[j]) }) ∧
      exec (.rdLic k) t = .next { t with reply := some (crc8 (mixed s.id k)) }

/-- The loop of the reference function in closed form: byte `k` is the checksum of `ID[0..k] ++ TEMPLATE[k+1..5]`; it has six
bytes. -/
def Obligations.DeriveClosedForm : Prop :=
  ∀ x : Bytes6, derive x = (List.finRange 6).map (fun k => crc8 (mixed x k)) ∧ (derive x).length = 6

/-- A run-all derivation part done: under every interleaving without an abort or a reset, after `n` of its stages the engine is
busy at stage `n`, the identifier is as it was, and exactly the first `n` bytes are produced. -/
def Obligations.RunAllProgress : Prop :=
  ∀ (s : State) (es : List Event), s.busy = false → s.resetHeld = false → es.all keepsRunning = true →
    engineTurns es ≤ 5 →
    ∃ t, runThrough (hostEvent .cmdStart :: es) s = .next t ∧ t.busy = true ∧ t.done = false ∧
      t.stage = BitVec.ofNat 3 (engineTurns es) ∧ t.id = s.id ∧
      ∀ k : Index,
        t.wb[k] = (if k.val < engineTurns es then s.id[k] else Config.template[k]) ∧
        t.lic[k] = if k.val < engineTurns es then crc8 (mixed s.id k) else 0x00

/-- R125, and R123 (marked there as the spec's own inference): a run-all derivation ends at its sixth stage step, under every interleaving without an abort or a reset, with
`LIC = derive(ID)`, `WB = ID`, `STAGE = 6`, `DONE = 1`, `BUSY = 0`. -/
def Obligations.RunAllEndsWithDerive : Prop :=
  ∀ (s : State) (es : List Event), s.busy = false → s.resetHeld = false → es.all keepsRunning = true →
    engineTurns es = 5 →
    ∃ t, runThrough (hostEvent .cmdStart :: es ++ [.engine]) s = .next t ∧ t.lic.toList = derive s.id ∧
      t.wb = s.id ∧ t.id = s.id ∧ t.stage = 6 ∧ t.done = true ∧ t.busy = false

/-- R173's clause marked as the spec's own inference: six `CMD.STEP`s after `CMD.INIT`, each waited out by any number of polls,
give the same result as one `CMD.START` under any interleaving without an abort or a reset, and a seventh is refused with
ERR_SEQ. -/
def Obligations.SixStepsEqualStart : Prop :=
  ∀ (s : State) (early late : Index → Nat) (es : List Event), s.busy = false → s.resetHeld = false →
    es.all keepsRunning = true → engineTurns es = 5 →
    ∃ t u, runThrough (hostEvent .cmdInit :: waitedSteps early late) s = .next t ∧
      runThrough (hostEvent .cmdStart :: es ++ [.engine]) s = .next u ∧
      t.lic = u.lic ∧ t.wb = u.wb ∧ t.id = u.id ∧ t.stage = u.stage ∧ t.done = u.done ∧ t.busy = u.busy ∧
      t.lic.toList = derive s.id ∧ t.stage = 6 ∧ t.done = true ∧ t.busy = false ∧ t.errc = s.errc ∧
      exec .cmdStep t = .next { t with errc := if t.errc = .none then .seq else t.errc, reply := none }

/-- R126 (marked there as the spec's own inference): changing exactly byte `p` of the identifier leaves every output byte before `p` and changes every one from `p` on. -/
def Obligations.SensitivityOfDerive : Prop :=
  ∀ (x y : Bytes6) (p : Index), x[p] ≠ y[p] → (∀ j : Index, j ≠ p → x[j] = y[j]) →
    (∀ j : Index, j < p → (derive x)[j.val]? = (derive y)[j.val]?) ∧
    ∀ j : Index, p ≤ j → (derive x)[j.val]? ≠ (derive y)[j.val]?

/-- R127 (marked there as the spec's own inference): output byte `k` depends only on identifier bytes 0 to `k`, and the last byte on all six. -/
def Obligations.OutputByteDependsOnPrefix : Prop :=
  (∀ (x y : Bytes6) (k : Index), (∀ j : Index, j ≤ k → x[j] = y[j]) → (derive x)[k.val]? = (derive y)[k.val]?) ∧
  ∀ (x : Bytes6) (p : Index) (v : Byte), v ≠ x[p] → (derive (x.set p v))[5]? ≠ (derive x)[5]?

/-- R130 (marked there as the spec's own inference): the corner identifiers. -/
def Obligations.CornerIdentifiers : Prop :=
  derive #v[0x19, 0x56, 0xAD, 0xC0, 0xB3, 0xF3] = [0x3A, 0x3A, 0x3A, 0x3A, 0x3A, 0x3A] ∧
  derive (Vector.replicate 6 0x00) = [0xC2, 0x73, 0x72, 0xFF, 0x8F, 0x58] ∧
  derive (Vector.replicate 6 0xFF) = [0x6D, 0xE5, 0x35, 0x93, 0x34, 0x10]

/-- R128, and R38 (marked there as the spec's own inference): a derivation's result depends on the identifier alone, whatever happened before, and whether it is run or
single-stepped. -/
def Obligations.NoStateBetweenDerivations : Prop :=
  ∀ s u : State, s.id = u.id → s.busy = false → u.busy = false → s.resetHeld = false → u.resetHeld = false →
    ∃ t v, runThrough (hostEvent .cmdStart :: List.replicate 6 .engine) s = .next t ∧
      runThrough (hostEvent .cmdInit :: sixSteps) u = .next v ∧
      t.lic = v.lic ∧ t.wb = v.wb ∧ t.stage = v.stage ∧ t.done = v.done ∧ t.busy = v.busy

/-! ## Register access (42_bus_access.md) -/

/-- R140: `RD.ID k`. -/
def Obligations.ReadIdentifier : Prop :=
  ∀ (k : Index) (d : Byte) (s : State),
    decode (wordAt 0x0000 k d) = .rdId k ∧
    exec (.rdId k) s = .next { s with reply := some s.id[k] } ∧
    exec (.rdId k) State.reset = .next { State.reset with reply := some 0x00 } ∧
    ∀ v : Byte, ∃ t, exec (.wrId k v) s = .next t ∧
      exec (.rdId k) t = .next { t with reply := some (if s.active = true then s.id[k] else v) }

/-- R141: `WR.ID k, D`: stored, or refused while ACTIVE. -/
def Obligations.WriteIdentifier : Prop :=
  ∀ (k : Index) (d : Byte) (s : State),
    decode (wordAt 0x8000 k d) = .wrId k d ∧
    (ActiveByRule s →
      exec (.wrId k d) s = .next { s with errc := if s.errc = .none then .busy else s.errc, reply := none }) ∧
    (¬ ActiveByRule s →
      exec (.wrId k d) s = .next { s with id := s.id.set k d, reply := none } ∧
      exec (.wrId k d) { s with id := s.id.set k d, reply := none } = .next { s with id := s.id.set k d, reply := none })

/-- `RD.LIC k` and `RD.WB k`: the element in every state; 0x00 and the template's byte before stage `k`; the produced byte and
the identifier's byte after it, while the derivation is part done; `derive(ID)` when it is finished. -/
def Obligations.ReadLicenseAndBuffer : Prop :=
  ∀ (k : Index) (d : Byte) (s : State),
    decode (wordAt 0x0800 k d) = .rdLic k ∧ decode (wordAt 0x1000 k d) = .rdWb k ∧
    exec (.rdLic k) s = .next { s with reply := some s.lic[k] } ∧
    exec (.rdWb k) s = .next { s with reply := some s.wb[k] } ∧
    (Consistent s → s.stage.toNat ≤ k.val →
      exec (.rdLic k) s = .next { s with reply := some 0x00 } ∧
      exec (.rdWb k) s = .next { s with reply := some Config.template[k] }) ∧
    (Consistent s → s.stage.toNat ≤ 5 → k.val < s.stage.toNat →
      exec (.rdLic k) s = .next { s with reply := some (crc8 (mixed s.id k)) } ∧
      exec (.rdWb k) s = .next { s with reply := some s.id[k] }) ∧
    (Consistent s → s.busy = false → s.done = true → s.wb = s.id →
      exec (.rdLic k) s = .next { s with reply := (derive s.id)[k.val]? })

/-- R143, R145: writes to `LIC` and `WB` are ignored, and hand back nothing. -/
def Obligations.FileWritesIgnored : Prop :=
  ∀ (k : Index) (d : Byte) (s : State),
    decode (wordAt 0x8800 k d) = .wrLic k d ∧ exec (.wrLic k d) s = .next { s with reply := none } ∧
    decode (wordAt 0x9000 k d) = .wrWb k d ∧ exec (.wrWb k d) s = .next { s with reply := none }

/-- R147, R32: `RD.STATUS`, every field of the byte, and its values in the corner cases. -/
def Obligations.ReadStatus : Prop :=
  ∀ (d : Byte) (s : State),
    decode (wordAt 0x1900 0 d) = .rdStatus ∧
    exec .rdStatus s = .next { s with reply := some s.status } ∧
    (s.status.getLsbD 0 = s.busy ∧ s.status.getLsbD 1 = s.done ∧ s.status.getLsbD 2 = decide (s.errc ≠ .none) ∧
      s.status.extractLsb' 3 3 = s.stage ∧ s.status.extractLsb' 6 2 = s.errc.bits) ∧
    State.reset.status = 0x00 ∧
    (s.stage = 6 → s.done = true → s.busy = false → s.errc = .none → s.status = 0x32) ∧
    (s.busy = true → s.done = false → s.errc = .none →
      s.status = 0x01 ||| BitVec.ofNat 8 (s.stage.toNat * 8)) ∧
    (s.errc = .illegal → s.status = 0x44 ||| { s with errc := .none }.status) ∧
    (s.errc = .busy → s.status = 0x84 ||| { s with errc := .none }.status) ∧
    (s.errc = .seq → s.status = 0xC4 ||| { s with errc := .none }.status) ∧
    (Consistent s → s.status.extractLsb' 3 3 ≠ 7)

/-- R146, R148, R150: `RD.CMD`, `RD.POLY` and `RD.SEED` hand back constants in every state. -/
def Obligations.ReadConstants : Prop :=
  ∀ (d : Byte) (s : State),
    decode (wordAt 0x1800 0 d) = .rdCmd ∧ exec .rdCmd s = .next { s with reply := some 0x00 } ∧
    decode (wordAt 0x1A00 0 d) = .rdPoly ∧ exec .rdPoly s = .next { s with reply := some 0x07 } ∧
    decode (wordAt 0x1B00 0 d) = .rdSeed ∧ exec .rdSeed s = .next { s with reply := some 0xCD }

/-- R149, R151, R152: writes to `STATUS`, `POLY` and `SEED` are ignored; they clear no error and change no constant. -/
def Obligations.ControlWritesIgnored : Prop :=
  ∀ (d : Byte) (s : State),
    decode (wordAt 0x9900 0 d) = .wrStatus d ∧ exec (.wrStatus d) s = .next { s with reply := none } ∧
    decode (wordAt 0x9A00 0 d) = .wrPoly d ∧ exec (.wrPoly d) s = .next { s with reply := none } ∧
    decode (wordAt 0x9B00 0 d) = .wrSeed d ∧ exec (.wrSeed d) s = .next { s with reply := none }

/-- R154, R155: a read of a reserved address hands back 0x00, a write to one is ignored. -/
def Obligations.ReservedAddressesInert : Prop :=
  ∀ a ∈ ([0x06, 0x07, 0x0E, 0x0F, 0x16, 0x17, 0x1C, 0x1D, 0x1E, 0x1F] : List Addr), ∀ (d : Byte) (s : State),
    decode (wordAt 0x0000 a.toNat d) = .rdRsv a ∧ exec (.rdRsv a) s = .next { s with reply := some 0x00 } ∧
    decode (wordAt 0x8000 a.toNat d) = .wrRsv a d ∧ exec (.wrRsv a d) s = .next { s with reply := none }

/-- R153: a word with reserved bits records ERR_ILLEGAL, performs no access, and hands back 0x00 if it is read-shaped. -/
def Obligations.IllegalWords : Prop :=
  ∀ (w : BusWord) (s : State), w.extractLsb' 13 2 ≠ 0b00 →
    decode w = .illegal w ∧
    exec (.illegal w) s = .next { s with
      errc := if s.errc = .none then .illegal else s.errc
      reply := if w.getLsbD 15 = true then none else some 0x00 }

/-! ## Commands (43_commands.md) -/

/-- R170: `CMD.NOP` leaves the engine's state as it is. -/
def Obligations.CommandNop : Prop :=
  decode 0x9800 = .cmdNop ∧ ∀ s : State, exec .cmdNop s = .next { s with reply := none }

/-- `CMD.START`: refused while busy, else a new derivation in run-all mode. -/
def Obligations.CommandStart : Prop :=
  decode 0x9801 = .cmdStart ∧
  (∀ s : State, s.busy = true →
    exec .cmdStart s = .next { s with errc := if s.errc = .none then .busy else s.errc, reply := none }) ∧
  ∀ s : State, s.busy = false →
    exec .cmdStart s = .next { s with
      wb := #v[0x19, 0x56, 0xAD, 0xC0, 0xB3, 0xF3], lic := Vector.replicate 6 0x00, stage := 0, done := false
      mode := .all, busy := true, reply := none }

/-- R172: `CMD.INIT`: refused while busy, else a new derivation that is not run; two in a row equal one, and the identifier may
be written after it. -/
def Obligations.CommandInit : Prop :=
  decode 0x9802 = .cmdInit ∧
  (∀ s : State, s.busy = true →
    exec .cmdInit s = .next { s with errc := if s.errc = .none then .busy else s.errc, reply := none }) ∧
  ∀ s : State, s.busy = false →
    ∃ t, exec .cmdInit s = .next t ∧
      t = { s with
        wb := #v[0x19, 0x56, 0xAD, 0xC0, 0xB3, 0xF3], lic := Vector.replicate 6 0x00, stage := 0, done := false
        reply := none } ∧
      exec .cmdInit t = .next t ∧
      ∀ (k : Index) (d : Byte), exec (.wrId k d) t = .next { t with id := t.id.set k d }

/-- `CMD.STEP`: refused while busy, refused after the last stage, else the next stage alone. -/
def Obligations.CommandStep : Prop :=
  decode 0x9803 = .cmdStep ∧
  (∀ s : State, s.busy = true →
    exec .cmdStep s = .next { s with errc := if s.errc = .none then .busy else s.errc, reply := none }) ∧
  (∀ s : State, s.busy = false → s.stage = 6 →
    exec .cmdStep s = .next { s with errc := if s.errc = .none then .seq else s.errc, reply := none }) ∧
  ∀ s : State, s.busy = false → s.stage ≠ 6 →
    exec .cmdStep s = .next { s with mode := .one, busy := true, reply := none }

/-- R174: `CMD.CLEAR` in every state: everything but `ID` and `MODE` as after reset, the pending stage withdrawn; no other
instruction clears an error. -/
def Obligations.CommandClear : Prop :=
  decode 0x9804 = .cmdClear ∧
  (∀ s : State, ∃ t, exec .cmdClear s = .next t ∧
    t = { s with
      wb := #v[0x19, 0x56, 0xAD, 0xC0, 0xB3, 0xF3], lic := Vector.replicate 6 0x00, stage := 0, done := false
      busy := false, errc := .none, reply := none } ∧
    t.status = 0x00 ∧ engineTurn t = .next t) ∧
  ∀ (i : Instr) (s t : State), i ≠ .cmdClear → s.errc ≠ .none → exec i s = .next t → t.errc = s.errc

/-- R175: a reserved command code records ERR_ILLEGAL in every state and does nothing else. -/
def Obligations.CommandReserved : Prop :=
  ∀ (d : Byte) (s : State), 0x05 ≤ d.toNat →
    decode (wordAt 0x9800 0 d) = .cmdRsv d ∧
    exec (.cmdRsv d) s = .next { s with errc := if s.errc = .none then .illegal else s.errc, reply := none }

/-! ## Errors (60_exceptions.md) -/

/-- R201, R202: the instructions and conditions that raise an error, by the rule's table; the first error is recorded and the
instruction does nothing else; every other instruction leaves `ERRC`, but for `CMD.CLEAR`. -/
def Obligations.ErrorCausesAndRecording : Prop :=
  ∀ (i : Instr) (s : State),
    (∀ c : ErrCode, Raises i s c →
      exec i s = .next { s with
        errc := if s.errc = .none then c else s.errc
        reply := match i with
          | .illegal w => if w.getLsbD 15 = true then none else some 0x00
          | _ => none }) ∧
    ((∀ c : ErrCode, ¬ Raises i s c) → ∃ t, exec i s = .next t ∧ t.errc = if i = .cmdClear then .none else s.errc)

/-- A recorded error stays, whatever step comes next, until `CMD.CLEAR` or reset. -/
def Obligations.RecordedErrorStays : Prop :=
  ∀ s t : State, s.errc ≠ .none → step s = .next t →
    t.errc = s.errc ∨ (t.errc = .none ∧ (dueInstr s = some .cmdClear ∨ dueReset s = true))

/-- A recorded error disturbs nothing: from two states that differ only in `ERRC` and the last reply, every run of any
interleaving leaves states that differ only in those. -/
def Obligations.ErrorsDisturbNothing : Prop :=
  ∀ (s u t : State) (es : List Event), SameButError s u → runThrough es s = .next t →
    ∃ v, runThrough es u = .next v ∧ SameButError t v

/-! ## Reset and the whole machine -/

/-- The invariants of R37 (items 1 to 6, marked there as the spec's own inference) hold after reset. -/
def Obligations.InvariantsAfterReset : Prop := Consistent State.reset

/-- Every step keeps the invariants of R37 (items 1 to 6, marked there as the spec's own inference), from every state that has
them. -/
def Obligations.StepKeepsInvariants : Prop :=
  ∀ s t : State, Consistent s → step s = .next t → Consistent t

/-- No behaviour of the engine is a fault, and no instruction is refused: no number of steps stops, from a state that has the
invariants or that a run from reset reaches. -/
def Obligations.NoRunStops : Prop :=
  (∀ s : State, Consistent s → Safe s) ∧ ∀ s : State, Reachable s → Safe s

/-- R37 item 7 (marked there as the spec's own inference) as a rule of steps: the sixth stage leaves `WB = ID`; after it, until a new derivation, `WB` and `LIC` stay, and
only a `WR.ID` changes `ID`. -/
def Obligations.StaleResultOnlyByIdWrite : Prop :=
  ∀ s t : State, Consistent s → step s = .next t → t.stage = 6 →
    (s.stage ≠ 6 → t.wb = t.id) ∧
    (s.stage = 6 → t.wb = s.wb ∧ t.lic = s.lic ∧ (t.id = s.id ∨ ∃ k d, dueInstr s = some (.wrId k d)))

/-- R20's column "written by": which step may change each piece of state. -/
def Obligations.FieldsWrittenOnlyBy : Prop :=
  ∀ s t : State, step s = .next t →
    (t.id ≠ s.id → dueReset s = true ∨ ∃ k d, dueInstr s = some (.wrId k d)) ∧
    (t.wb ≠ s.wb ∨ t.lic ≠ s.lic ∨ t.stage ≠ s.stage ∨ t.done ≠ s.done →
      dueReset s = true ∨ dueStage s = true ∨
        dueInstr s = some .cmdStart ∨ dueInstr s = some .cmdInit ∨ dueInstr s = some .cmdClear) ∧
    (t.busy ≠ s.busy →
      dueReset s = true ∨ dueStage s = true ∨
        dueInstr s = some .cmdStart ∨ dueInstr s = some .cmdStep ∨ dueInstr s = some .cmdClear) ∧
    (t.errc ≠ s.errc →
      dueReset s = true ∨ dueInstr s = some .cmdClear ∨ ∃ i c, dueInstr s = some i ∧ Raises i s c) ∧
    (t.mode ≠ s.mode → dueReset s = true ∨ dueInstr s = some .cmdStart ∨ dueInstr s = some .cmdStep)

/-- R39: while ACTIVE no step but reset changes the identifier; `WR.ID` is refused then, and succeeds otherwise. -/
def Obligations.IdentifierFrozenWhileActive : Prop :=
  (∀ s t : State, ActiveByRule s → step s = .next t → dueReset s = false →
    t.id = s.id) ∧
  ∀ (s : State) (k : Index) (d : Byte) (rest : List Event),
    s.schedule = hostEvent (.wrId k d) :: rest → s.resetHeld = false →
    ∃ t, step s = .next t ∧
      (ActiveByRule s →
        t.id = s.id ∧ t.errc = if s.errc = .none then .busy else s.errc) ∧
      (¬ ActiveByRule s → t.id = s.id.set k d ∧ t.errc = s.errc)

/-- R61 (marked there as the spec's own inference): once a read of `STATUS` shows `BUSY = 0` and `DONE = 1`, `LIC` holds `derive` of the derived identifier, and it stays
through every interleaving with no `CMD.START`, `CMD.INIT`, `CMD.CLEAR` or reset. -/
def Obligations.ResultStaysUntilRestart : Prop :=
  ∀ (s : State) (v : Byte) (es : List Event), Consistent s → exec .rdStatus s = .next { s with reply := some v } →
    v.getLsbD 0 = false → v.getLsbD 1 = true → es.all keepsResult = true →
    s.lic.toList = derive s.wb ∧
    ∃ t, runThrough es s = .next t ∧ t.lic = s.lic ∧ t.wb = s.wb ∧ t.busy = false ∧ t.done = true

/-- R36: the reset step leaves every piece of state at its reset value, from every state; `MODE` is left open. That these are
the values `CMD.INIT` leaves, and that a `CMD.STEP` may follow directly, is the spec's own inference there ("derived: from this
rule and 43_commands.md rule R172"). -/
def Obligations.ResetValues : Prop :=
  (∀ (s : State) (rest : List Event), s.schedule = .resetAssert :: rest →
    ∃ t, step s = .next t ∧ t.id = Vector.replicate 6 0x00 ∧ t.wb = #v[0x19, 0x56, 0xAD, 0xC0, 0xB3, 0xF3] ∧
      t.lic = Vector.replicate 6 0x00 ∧ t.stage = 0 ∧ t.busy = false ∧ t.done = false ∧ t.errc = .none ∧
      t.status = 0x00 ∧ t.doneO = false ∧ t.errO = false ∧ regRead polyAddr t = 0x07 ∧ regRead seedAddr t = 0xCD ∧
      t.resetHeld = true ∧ t.schedule = rest) ∧
  (State.reset.id = Vector.replicate 6 0x00 ∧ State.reset.wb = #v[0x19, 0x56, 0xAD, 0xC0, 0xB3, 0xF3] ∧
    State.reset.lic = Vector.replicate 6 0x00 ∧ State.reset.stage = 0 ∧ State.reset.busy = false ∧
    State.reset.done = false ∧ State.reset.errc = .none ∧ State.reset.status = 0x00 ∧ State.reset.doneO = false ∧
    State.reset.errO = false ∧ regRead polyAddr State.reset = 0x07 ∧ regRead seedAddr State.reset = 0xCD) ∧
  (∀ s : State, s.id = Vector.replicate 6 0x00 → s.errc = .none → s.busy = false →
    ∃ t, exec .cmdInit s = .next t ∧ t.id = State.reset.id ∧ t.wb = State.reset.wb ∧ t.lic = State.reset.lic ∧
      t.status = State.reset.status) ∧
  exec .cmdStep State.reset = .next { State.reset with mode := .one, busy := true, reply := none }

/-- R230: while reset stays asserted, no bus word is performed and no stage step is taken: whatever happens until it is released,
every engine field stays. That a host word is used up then is the model's choice (notes/assumptions 7). -/
def Obligations.HeldResetStopsBothAgents : Prop :=
  ∀ (s : State) (es : List Event), s.resetHeld = true →
    (∀ e ∈ es, e ≠ .resetRelease ∧ e ≠ .resetAssert) →
    ∃ t, runThrough es s = .next t ∧
      t = { s with schedule := [], reply := t.reply, freeCount := t.freeCount } ∧ t.resetHeld = true

/-- R231 (marked there as the spec's own inference): reset and `CMD.CLEAR` differ in exactly one respect a host can see: reset also clears `ID`. -/
def Obligations.ClearAndResetDifferInId : Prop :=
  ∀ s : State, ∃ c r, exec .cmdClear s = .next c ∧ perform .resetAssert s = .next r ∧
    c.id = s.id ∧ r.id = Vector.replicate 6 0x00 ∧ c.wb = r.wb ∧ c.lic = r.lic ∧ c.stage = r.stage ∧
    c.busy = r.busy ∧ c.done = r.done ∧ c.errc = r.errc ∧ c.mode = s.mode ∧ c.status = r.status

/-- A step runs the decoded instruction: with a host word next and reset released, the step is `exec` of the word's instruction,
with the word taken off the schedule; and the same with the word placed there by `withFetchWord`, which also releases reset (the
model's: notes/assumptions 9), as `decodeTableWord` reads it (the model's: notes/assumptions 17). -/
def Obligations.StepRunsDecodedWord : Prop :=
  (∀ (s : State) (w : BusWord) (rest : List Event), s.schedule = .word w :: rest → s.resetHeld = false →
    step s = exec (decode w) { s with schedule := rest }) ∧
  (∀ (s : State) (i : Instr) (rest : List Event), i.wf = true → s.schedule = hostEvent i :: rest →
    s.resetHeld = false → step s = exec i { s with schedule := rest }) ∧
  ∀ (s : State) (w : Nat) (i : Instr), decodeTableWord 16 w = some i →
    step (s.withFetchWord 16 w) = exec i { s with resetHeld := false }

/-- What a step does when the host's word is not next: the engine's turn, the reset input asserted and released (`ResetValues`
has every value the reset step leaves), and the end of the schedule, where a pending stage is taken and an idle engine stays as
it is (the model's choice: notes/assumptions 3, 4 and 5). -/
def Obligations.StepTakesTheScheduledTurn : Prop :=
  ∀ (s : State) (rest : List Event),
    (s.schedule = .engine :: rest → s.busy = true → s.resetHeld = false →
      step s = stageStep { s with schedule := rest }) ∧
    (s.schedule = .engine :: rest → s.busy = false → step s = .next { s with schedule := rest }) ∧
    (s.schedule = [] → s.busy = true → s.resetHeld = false → step s = stageStep s) ∧
    (s.schedule = [] → s.busy = false → step s = .next s) ∧
    (s.schedule = .resetAssert :: rest → step s = .next (resetEngine { s with schedule := rest })) ∧
    (s.schedule = .resetRelease :: rest → step s = .next { s with schedule := rest, resetHeld := false })

/-- R29, a clause marked there as the spec's own inference: `MODE` cannot be observed while the engine is not busy: two runs that start with different modes give the same replies
and states under every interleaving, and the same mode whenever the engine is busy. -/
def Obligations.ModeUnobservable : Prop :=
  ∀ (s t : State) (m : Mode) (es : List Event), s.busy = false → runThrough es s = .next t →
    ∃ v, runThrough es { s with mode := m } = .next v ∧ SameButMode t v ∧ (t.busy = true → v.mode = t.mode)

/-- R251 (marked there as the spec's own inference) under R60: in every weakly fair execution, a host that polls `STATUS` while a derivation runs reads `BUSY = 0` after finitely
many reads. -/
def Obligations.PollingTerminates : Prop :=
  ∀ (s : State) (f : Nat → Event), Consistent s → s.busy = true → s.resetHeld = false →
    (∀ n, f n = .engine ∨ f n = hostEvent .rdStatus) → (∀ n, ∃ m, n ≤ m ∧ f m = .engine) →
    ∃ N t v, runThrough ((List.range N).map f) s = .next t ∧ t.busy = false ∧
      exec .rdStatus t = .next { t with reply := some v } ∧ v.getLsbD 0 = false

/-- R240 (marked there as the spec's own inference): of two `CMD.STEP`s back to back the second is refused, and it is accepted if the stage step came first: the model
admits both outcomes. -/
def Obligations.BackToBackSteps : Prop :=
  ∀ s : State, s.busy = false → s.resetHeld = false → s.stage.toNat ≤ 4 →
    (∃ t, runThrough [hostEvent .cmdStep, hostEvent .cmdStep] s = .next t ∧
      t = { s with
        mode := .one, busy := true, errc := if s.errc = .none then .busy else s.errc, reply := none, schedule := [] }) ∧
    ∃ t, runThrough [hostEvent .cmdStep, .engine, hostEvent .cmdStep] s = .next t ∧ t.errc = s.errc ∧
      t.busy = true ∧ t.mode = .one ∧ t.stage.toNat = s.stage.toNat + 1

/-- The level outputs are `DONE` and `ERR`. `done_o` rises in exactly the stage step that sets `STAGE = 6`, and falls at exactly
`CMD.START`, `CMD.INIT`, `CMD.CLEAR` and reset; `err_o` rises exactly when an error is first recorded, and falls at exactly
`CMD.CLEAR` and reset. -/
def Obligations.OutputLevelsChangeOnlyBy : Prop :=
  (∀ s : State, s.doneO = s.done ∧ s.errO = decide (s.errc ≠ .none)) ∧
  ∀ s t : State, step s = .next t →
    (s.doneO = false → (t.doneO = true ↔ dueStage s = true ∧ t.stage = 6)) ∧
    (dueStage s = true → t.stage = 6 → t.doneO = true) ∧
    (s.doneO = true → t.doneO = false →
      dueReset s = true ∨ dueInstr s = some .cmdStart ∨ dueInstr s = some .cmdInit ∨ dueInstr s = some .cmdClear) ∧
    (Consistent s →
      dueReset s = true ∨ dueInstr s = some .cmdStart ∨ dueInstr s = some .cmdInit ∨ dueInstr s = some .cmdClear →
      t.doneO = false) ∧
    (s.errO = false → (t.errO = true ↔ ∃ i c, dueInstr s = some i ∧ Raises i s c)) ∧
    (s.errO = true → (t.errO = false ↔ dueReset s = true ∨ dueInstr s = some .cmdClear)) ∧
    (dueReset s = true ∨ dueInstr s = some .cmdClear → t.errO = false)
end

