-- ==== Sys2Proof/Laws/Fields.lean ====
section
/-! SUPPORT. The fields of an assembled bus word, and what the decoder's operand functions answer for each register's address. -/

namespace Sys2Proof

/-- The bits of an assembled word. -/
theorem busWord_getLsbD (b : Bool) (r : BitVec 2) (a : Addr) (d : Byte) (i : Nat) :
    (busWord b r a d).getLsbD i =
      (decide (i = 15) && b || decide (13 ≤ i ∧ i < 15) && r.getLsbD (i - 13) ||
        decide (8 ≤ i ∧ i < 13) && a.getLsbD (i - 8) || decide (i < 8) && d.getLsbD i) := by
  by_cases hi : i < 16
  · have : i = 0 ∨ i = 1 ∨ i = 2 ∨ i = 3 ∨ i = 4 ∨ i = 5 ∨ i = 6 ∨ i = 7 ∨ i = 8 ∨ i = 9 ∨ i = 10 ∨ i = 11 ∨ i = 12 ∨
        i = 13 ∨ i = 14 ∨ i = 15 := by omega
    rcases this with h | h | h | h | h | h | h | h | h | h | h | h | h | h | h | h <;> subst h <;>
      simp [busWord]
  · have h1 : ¬ i = 15 := by omega
    have h2 : ¬ i < 15 := by omega
    have h3 : ¬ i < 13 := by omega
    have h4 : ¬ i < 8 := by omega
    simp [h1, h2, h3, h4, BitVec.getLsbD_of_ge (busWord b r a d) i (by omega)]

@[simp] theorem writeBit_busWord (b : Bool) (r : BitVec 2) (a : Addr) (d : Byte) :
    writeBit (busWord b r a d) = b := by
  unfold writeBit; rw [busWord_getLsbD]; simp

@[simp] theorem rsvField_busWord (b : Bool) (r : BitVec 2) (a : Addr) (d : Byte) :
    rsvField (busWord b r a d) = r := by
  apply BitVec.eq_of_getLsbD_eq
  intro i hi
  have h1 : 13 + i < 15 := by omega
  have h2 : ¬ 13 + i = 15 := by omega
  have h3 : ¬ 13 + i < 8 := by omega
  simp [rsvField, busWord_getLsbD, h1, h2, h3, hi]

@[simp] theorem addrField_busWord (b : Bool) (r : BitVec 2) (a : Addr) (d : Byte) :
    addrField (busWord b r a d) = a := by
  apply BitVec.eq_of_getLsbD_eq
  intro i hi
  have h1 : 8 + i < 13 := by omega
  have h2 : ¬ 8 + i = 15 := by omega
  have h3 : ¬ 13 ≤ 8 + i := by omega
  simp [addrField, busWord_getLsbD, h1, h2, h3, hi]

@[simp] theorem dataField_busWord (b : Bool) (r : BitVec 2) (a : Addr) (d : Byte) :
    dataField (busWord b r a d) = d := by
  apply BitVec.eq_of_getLsbD_eq
  intro i hi
  have h1 : ¬ i = 15 := by omega
  have h2 : ¬ 13 ≤ i := by omega
  have h3 : ¬ 8 ≤ i := by omega
  simp [dataField, busWord_getLsbD, h1, h2, h3, hi]

/-- A word is the word of its four fields. -/
theorem busWord_fields (w : BusWord) : busWord (writeBit w) (rsvField w) (addrField w) (dataField w) = w := by
  apply BitVec.eq_of_getLsbD_eq
  intro i hi
  have : i = 0 ∨ i = 1 ∨ i = 2 ∨ i = 3 ∨ i = 4 ∨ i = 5 ∨ i = 6 ∨ i = 7 ∨ i = 8 ∨ i = 9 ∨ i = 10 ∨ i = 11 ∨ i = 12 ∨
      i = 13 ∨ i = 14 ∨ i = 15 := by omega
  rcases this with h | h | h | h | h | h | h | h | h | h | h | h | h | h | h | h <;> subst h <;>
    rw [busWord_getLsbD] <;> simp [writeBit, rsvField, addrField, dataField]

@[simp] theorem decode_readWord (a : Addr) : decode (readWord a) = decodeRead a := by
  simp [decode, readWord]

@[simp] theorem decode_writeWord (a : Addr) (d : Byte) : decode (writeWord a d) = decodeWrite a d := by
  simp [decode, writeWord]

/-- A legal word decodes by its address and data alone. -/
theorem decode_busWord (b : Bool) (a : Addr) (d : Byte) :
    decode (busWord b 0b00 a d) = if b then decodeWrite a d else decodeRead a := by
  simp [decode]

theorem decode_of_rsv {w : BusWord} (h : rsvField w ≠ 0b00) : decode w = .illegal w := by
  unfold decode; rw [if_pos h]

@[simp] theorem decodeRead_idAddr (k : Index) : decodeRead (idAddr k) = .rdId k := by
  revert k; decide +kernel

@[simp] theorem decodeRead_licAddr (k : Index) : decodeRead (licAddr k) = .rdLic k := by
  revert k; decide +kernel

@[simp] theorem decodeRead_wbAddr (k : Index) : decodeRead (wbAddr k) = .rdWb k := by
  revert k; decide +kernel

theorem idAddr_operands (k : Index) : addrGroup (idAddr k) = 0b00 ∧ regIndex (idAddr k) = some k := by
  revert k; decide +kernel

theorem licAddr_operands (k : Index) : addrGroup (licAddr k) = 0b01 ∧ regIndex (licAddr k) = some k := by
  revert k; decide +kernel

theorem wbAddr_operands (k : Index) : addrGroup (wbAddr k) = 0b10 ∧ regIndex (wbAddr k) = some k := by
  revert k; decide +kernel

@[simp] theorem decodeWrite_idAddr (k : Index) (d : Byte) : decodeWrite (idAddr k) d = .wrId k d := by
  simp [decodeWrite, idAddr_operands k]

@[simp] theorem decodeWrite_licAddr (k : Index) (d : Byte) : decodeWrite (licAddr k) d = .wrLic k d := by
  simp [decodeWrite, licAddr_operands k]

@[simp] theorem decodeWrite_wbAddr (k : Index) (d : Byte) : decodeWrite (wbAddr k) d = .wrWb k d := by
  simp [decodeWrite, wbAddr_operands k]

@[simp] theorem decodeWrite_cmdAddr (d : Byte) : decodeWrite cmdAddr d = decodeCommand d := rfl

end Sys2Proof
end

