-- ==== Sys2Proof/Laws/State.lean ====
section
/-! SUPPORT. What each update of the state leaves in each field, one lemma a field and an update, so that no proof unfolds a
record update. -/

namespace Sys2Proof.Machine

/-! ### handing back a byte -/

@[simp] theorem giveBack_id (b : Byte) (s : State) : (giveBack b s).id = s.id := rfl
@[simp] theorem giveBack_wb (b : Byte) (s : State) : (giveBack b s).wb = s.wb := rfl
@[simp] theorem giveBack_lic (b : Byte) (s : State) : (giveBack b s).lic = s.lic := rfl
@[simp] theorem giveBack_stage (b : Byte) (s : State) : (giveBack b s).stage = s.stage := rfl
@[simp] theorem giveBack_busy (b : Byte) (s : State) : (giveBack b s).busy = s.busy := rfl
@[simp] theorem giveBack_done (b : Byte) (s : State) : (giveBack b s).done = s.done := rfl
@[simp] theorem giveBack_errc (b : Byte) (s : State) : (giveBack b s).errc = s.errc := rfl
@[simp] theorem giveBack_mode (b : Byte) (s : State) : (giveBack b s).mode = s.mode := rfl
@[simp] theorem giveBack_resetHeld (b : Byte) (s : State) : (giveBack b s).resetHeld = s.resetHeld := rfl
@[simp] theorem giveBack_reply (b : Byte) (s : State) : (giveBack b s).reply = some b := rfl
@[simp] theorem giveBack_schedule (b : Byte) (s : State) : (giveBack b s).schedule = s.schedule := rfl
@[simp] theorem giveBack_freeCount (b : Byte) (s : State) : (giveBack b s).freeCount = s.freeCount := rfl

/-! ### handing back nothing -/

@[simp] theorem giveNothing_id (s : State) : (giveNothing s).id = s.id := rfl
@[simp] theorem giveNothing_wb (s : State) : (giveNothing s).wb = s.wb := rfl
@[simp] theorem giveNothing_lic (s : State) : (giveNothing s).lic = s.lic := rfl
@[simp] theorem giveNothing_stage (s : State) : (giveNothing s).stage = s.stage := rfl
@[simp] theorem giveNothing_busy (s : State) : (giveNothing s).busy = s.busy := rfl
@[simp] theorem giveNothing_done (s : State) : (giveNothing s).done = s.done := rfl
@[simp] theorem giveNothing_errc (s : State) : (giveNothing s).errc = s.errc := rfl
@[simp] theorem giveNothing_mode (s : State) : (giveNothing s).mode = s.mode := rfl
@[simp] theorem giveNothing_resetHeld (s : State) : (giveNothing s).resetHeld = s.resetHeld := rfl
@[simp] theorem giveNothing_reply (s : State) : (giveNothing s).reply = none := rfl
@[simp] theorem giveNothing_schedule (s : State) : (giveNothing s).schedule = s.schedule := rfl
@[simp] theorem giveNothing_freeCount (s : State) : (giveNothing s).freeCount = s.freeCount := rfl

/-! ### writing an identifier byte -/

@[simp] theorem writeId_id (k : Index) (d : Byte) (s : State) : (writeId k d s).id = s.id.set k d := rfl
@[simp] theorem writeId_wb (k : Index) (d : Byte) (s : State) : (writeId k d s).wb = s.wb := rfl
@[simp] theorem writeId_lic (k : Index) (d : Byte) (s : State) : (writeId k d s).lic = s.lic := rfl
@[simp] theorem writeId_stage (k : Index) (d : Byte) (s : State) : (writeId k d s).stage = s.stage := rfl
@[simp] theorem writeId_busy (k : Index) (d : Byte) (s : State) : (writeId k d s).busy = s.busy := rfl
@[simp] theorem writeId_done (k : Index) (d : Byte) (s : State) : (writeId k d s).done = s.done := rfl
@[simp] theorem writeId_errc (k : Index) (d : Byte) (s : State) : (writeId k d s).errc = s.errc := rfl
@[simp] theorem writeId_mode (k : Index) (d : Byte) (s : State) : (writeId k d s).mode = s.mode := rfl
@[simp] theorem writeId_resetHeld (k : Index) (d : Byte) (s : State) : (writeId k d s).resetHeld = s.resetHeld := rfl
@[simp] theorem writeId_reply (k : Index) (d : Byte) (s : State) : (writeId k d s).reply = s.reply := rfl
@[simp] theorem writeId_schedule (k : Index) (d : Byte) (s : State) : (writeId k d s).schedule = s.schedule := rfl
@[simp] theorem writeId_freeCount (k : Index) (d : Byte) (s : State) : (writeId k d s).freeCount = s.freeCount := rfl

/-! ### beginning a derivation -/

@[simp] theorem freshDerivation_id (s : State) : (freshDerivation s).id = s.id := rfl
@[simp] theorem freshDerivation_wb (s : State) : (freshDerivation s).wb = Config.template := rfl
@[simp] theorem freshDerivation_lic (s : State) : (freshDerivation s).lic = zeros := rfl
@[simp] theorem freshDerivation_stage (s : State) : (freshDerivation s).stage = 0 := rfl
@[simp] theorem freshDerivation_busy (s : State) : (freshDerivation s).busy = s.busy := rfl
@[simp] theorem freshDerivation_done (s : State) : (freshDerivation s).done = false := rfl
@[simp] theorem freshDerivation_errc (s : State) : (freshDerivation s).errc = s.errc := rfl
@[simp] theorem freshDerivation_mode (s : State) : (freshDerivation s).mode = s.mode := rfl
@[simp] theorem freshDerivation_resetHeld (s : State) : (freshDerivation s).resetHeld = s.resetHeld := rfl
@[simp] theorem freshDerivation_reply (s : State) : (freshDerivation s).reply = s.reply := rfl
@[simp] theorem freshDerivation_schedule (s : State) : (freshDerivation s).schedule = s.schedule := rfl
@[simp] theorem freshDerivation_freeCount (s : State) : (freshDerivation s).freeCount = s.freeCount := rfl

/-! ### enabling the engine -/

@[simp] theorem enableEngine_id (m : Mode) (s : State) : (enableEngine m s).id = s.id := rfl
@[simp] theorem enableEngine_wb (m : Mode) (s : State) : (enableEngine m s).wb = s.wb := rfl
@[simp] theorem enableEngine_lic (m : Mode) (s : State) : (enableEngine m s).lic = s.lic := rfl
@[simp] theorem enableEngine_stage (m : Mode) (s : State) : (enableEngine m s).stage = s.stage := rfl
@[simp] theorem enableEngine_busy (m : Mode) (s : State) : (enableEngine m s).busy = true := rfl
@[simp] theorem enableEngine_done (m : Mode) (s : State) : (enableEngine m s).done = s.done := rfl
@[simp] theorem enableEngine_errc (m : Mode) (s : State) : (enableEngine m s).errc = s.errc := rfl
@[simp] theorem enableEngine_mode (m : Mode) (s : State) : (enableEngine m s).mode = m := rfl
@[simp] theorem enableEngine_resetHeld (m : Mode) (s : State) : (enableEngine m s).resetHeld = s.resetHeld := rfl
@[simp] theorem enableEngine_reply (m : Mode) (s : State) : (enableEngine m s).reply = s.reply := rfl
@[simp] theorem enableEngine_schedule (m : Mode) (s : State) : (enableEngine m s).schedule = s.schedule := rfl
@[simp] theorem enableEngine_freeCount (m : Mode) (s : State) : (enableEngine m s).freeCount = s.freeCount := rfl

/-! ### withdrawing a stage and clearing the error -/

@[simp] theorem withdrawAndForgive_id (s : State) : (withdrawAndForgive s).id = s.id := rfl
@[simp] theorem withdrawAndForgive_wb (s : State) : (withdrawAndForgive s).wb = s.wb := rfl
@[simp] theorem withdrawAndForgive_lic (s : State) : (withdrawAndForgive s).lic = s.lic := rfl
@[simp] theorem withdrawAndForgive_stage (s : State) : (withdrawAndForgive s).stage = s.stage := rfl
@[simp] theorem withdrawAndForgive_busy (s : State) : (withdrawAndForgive s).busy = false := rfl
@[simp] theorem withdrawAndForgive_done (s : State) : (withdrawAndForgive s).done = s.done := rfl
@[simp] theorem withdrawAndForgive_errc (s : State) : (withdrawAndForgive s).errc = .none := rfl
@[simp] theorem withdrawAndForgive_mode (s : State) : (withdrawAndForgive s).mode = s.mode := rfl
@[simp] theorem withdrawAndForgive_resetHeld (s : State) : (withdrawAndForgive s).resetHeld = s.resetHeld := rfl
@[simp] theorem withdrawAndForgive_reply (s : State) : (withdrawAndForgive s).reply = s.reply := rfl
@[simp] theorem withdrawAndForgive_schedule (s : State) : (withdrawAndForgive s).schedule = s.schedule := rfl
@[simp] theorem withdrawAndForgive_freeCount (s : State) : (withdrawAndForgive s).freeCount = s.freeCount := rfl

/-! ### raising an error -/

@[simp] theorem raiseError_id (c : ErrCode) (s : State) : (raiseError c s).id = s.id := rfl
@[simp] theorem raiseError_wb (c : ErrCode) (s : State) : (raiseError c s).wb = s.wb := rfl
@[simp] theorem raiseError_lic (c : ErrCode) (s : State) : (raiseError c s).lic = s.lic := rfl
@[simp] theorem raiseError_stage (c : ErrCode) (s : State) : (raiseError c s).stage = s.stage := rfl
@[simp] theorem raiseError_busy (c : ErrCode) (s : State) : (raiseError c s).busy = s.busy := rfl
@[simp] theorem raiseError_done (c : ErrCode) (s : State) : (raiseError c s).done = s.done := rfl
@[simp] theorem raiseError_errc (c : ErrCode) (s : State) : (raiseError c s).errc = firstError s.errc c := rfl
@[simp] theorem raiseError_mode (c : ErrCode) (s : State) : (raiseError c s).mode = s.mode := rfl
@[simp] theorem raiseError_resetHeld (c : ErrCode) (s : State) : (raiseError c s).resetHeld = s.resetHeld := rfl
@[simp] theorem raiseError_reply (c : ErrCode) (s : State) : (raiseError c s).reply = s.reply := rfl
@[simp] theorem raiseError_schedule (c : ErrCode) (s : State) : (raiseError c s).schedule = s.schedule := rfl
@[simp] theorem raiseError_freeCount (c : ErrCode) (s : State) : (raiseError c s).freeCount = s.freeCount := rfl

/-! ### the reset step -/

@[simp] theorem resetEngine_id (s : State) : (resetEngine s).id = zeros := rfl
@[simp] theorem resetEngine_wb (s : State) : (resetEngine s).wb = Config.template := rfl
@[simp] theorem resetEngine_lic (s : State) : (resetEngine s).lic = zeros := rfl
@[simp] theorem resetEngine_stage (s : State) : (resetEngine s).stage = 0 := rfl
@[simp] theorem resetEngine_busy (s : State) : (resetEngine s).busy = false := rfl
@[simp] theorem resetEngine_done (s : State) : (resetEngine s).done = false := rfl
@[simp] theorem resetEngine_errc (s : State) : (resetEngine s).errc = .none := rfl
@[simp] theorem resetEngine_mode (s : State) : (resetEngine s).mode = if Config.modeAllAfterReset s.freeCount then .all else .one := rfl
@[simp] theorem resetEngine_resetHeld (s : State) : (resetEngine s).resetHeld = true := rfl
@[simp] theorem resetEngine_reply (s : State) : (resetEngine s).reply = s.reply := rfl
@[simp] theorem resetEngine_schedule (s : State) : (resetEngine s).schedule = s.schedule := rfl
@[simp] theorem resetEngine_freeCount (s : State) : (resetEngine s).freeCount = s.freeCount + 1 := rfl

/-! ### releasing reset -/

@[simp] theorem releaseReset_id (s : State) : (releaseReset s).id = s.id := rfl
@[simp] theorem releaseReset_wb (s : State) : (releaseReset s).wb = s.wb := rfl
@[simp] theorem releaseReset_lic (s : State) : (releaseReset s).lic = s.lic := rfl
@[simp] theorem releaseReset_stage (s : State) : (releaseReset s).stage = s.stage := rfl
@[simp] theorem releaseReset_busy (s : State) : (releaseReset s).busy = s.busy := rfl
@[simp] theorem releaseReset_done (s : State) : (releaseReset s).done = s.done := rfl
@[simp] theorem releaseReset_errc (s : State) : (releaseReset s).errc = s.errc := rfl
@[simp] theorem releaseReset_mode (s : State) : (releaseReset s).mode = s.mode := rfl
@[simp] theorem releaseReset_resetHeld (s : State) : (releaseReset s).resetHeld = false := rfl
@[simp] theorem releaseReset_reply (s : State) : (releaseReset s).reply = s.reply := rfl
@[simp] theorem releaseReset_schedule (s : State) : (releaseReset s).schedule = s.schedule := rfl
@[simp] theorem releaseReset_freeCount (s : State) : (releaseReset s).freeCount = s.freeCount := rfl

/-! ### a stage -/

@[simp] theorem runStage_id (k : Index) (s : State) : (runStage k s).id = s.id := rfl
@[simp] theorem runStage_wb (k : Index) (s : State) : (runStage k s).wb = s.wb.set k s.id[k] := rfl
@[simp] theorem runStage_lic (k : Index) (s : State) : (runStage k s).lic = s.lic.set k (crc8 (s.wb.set k s.id[k])) := rfl
@[simp] theorem runStage_stage (k : Index) (s : State) : (runStage k s).stage = s.stage + 1 := rfl
@[simp] theorem runStage_busy (k : Index) (s : State) : (runStage k s).busy = busyAfter k s.mode s.busy := rfl
@[simp] theorem runStage_done (k : Index) (s : State) : (runStage k s).done = doneAfter k s.done := rfl
@[simp] theorem runStage_errc (k : Index) (s : State) : (runStage k s).errc = s.errc := rfl
@[simp] theorem runStage_mode (k : Index) (s : State) : (runStage k s).mode = s.mode := rfl
@[simp] theorem runStage_resetHeld (k : Index) (s : State) : (runStage k s).resetHeld = s.resetHeld := rfl
@[simp] theorem runStage_reply (k : Index) (s : State) : (runStage k s).reply = s.reply := rfl
@[simp] theorem runStage_schedule (k : Index) (s : State) : (runStage k s).schedule = s.schedule := rfl
@[simp] theorem runStage_freeCount (k : Index) (s : State) : (runStage k s).freeCount = s.freeCount := rfl

/-! ### placing a word -/

@[simp] theorem placeWord_id (w : BusWord) (s : State) : (placeWord w s).id = s.id := rfl
@[simp] theorem placeWord_wb (w : BusWord) (s : State) : (placeWord w s).wb = s.wb := rfl
@[simp] theorem placeWord_lic (w : BusWord) (s : State) : (placeWord w s).lic = s.lic := rfl
@[simp] theorem placeWord_stage (w : BusWord) (s : State) : (placeWord w s).stage = s.stage := rfl
@[simp] theorem placeWord_busy (w : BusWord) (s : State) : (placeWord w s).busy = s.busy := rfl
@[simp] theorem placeWord_done (w : BusWord) (s : State) : (placeWord w s).done = s.done := rfl
@[simp] theorem placeWord_errc (w : BusWord) (s : State) : (placeWord w s).errc = s.errc := rfl
@[simp] theorem placeWord_mode (w : BusWord) (s : State) : (placeWord w s).mode = s.mode := rfl
@[simp] theorem placeWord_resetHeld (w : BusWord) (s : State) : (placeWord w s).resetHeld = false := rfl
@[simp] theorem placeWord_reply (w : BusWord) (s : State) : (placeWord w s).reply = s.reply := rfl
@[simp] theorem placeWord_schedule (w : BusWord) (s : State) : (placeWord w s).schedule = .word w :: s.schedule := rfl
@[simp] theorem placeWord_freeCount (w : BusWord) (s : State) : (placeWord w s).freeCount = s.freeCount := rfl

/-! ### choosing the events to come -/

@[simp] theorem facing_id (es : List Event) (s : State) : (s.facing es).id = s.id := rfl
@[simp] theorem facing_wb (es : List Event) (s : State) : (s.facing es).wb = s.wb := rfl
@[simp] theorem facing_lic (es : List Event) (s : State) : (s.facing es).lic = s.lic := rfl
@[simp] theorem facing_stage (es : List Event) (s : State) : (s.facing es).stage = s.stage := rfl
@[simp] theorem facing_busy (es : List Event) (s : State) : (s.facing es).busy = s.busy := rfl
@[simp] theorem facing_done (es : List Event) (s : State) : (s.facing es).done = s.done := rfl
@[simp] theorem facing_errc (es : List Event) (s : State) : (s.facing es).errc = s.errc := rfl
@[simp] theorem facing_mode (es : List Event) (s : State) : (s.facing es).mode = s.mode := rfl
@[simp] theorem facing_resetHeld (es : List Event) (s : State) : (s.facing es).resetHeld = s.resetHeld := rfl
@[simp] theorem facing_reply (es : List Event) (s : State) : (s.facing es).reply = s.reply := rfl
@[simp] theorem facing_schedule (es : List Event) (s : State) : (s.facing es).schedule = es := rfl
@[simp] theorem facing_freeCount (es : List Event) (s : State) : (s.facing es).freeCount = s.freeCount := rfl

end Sys2Proof.Machine
end

