-- ==== Sys2Proof/Laws/Exec.lean ====
section
/-! SUPPORT. What a host instruction can do, said once: it always answers a next state, and it never touches the environment's
fields other than the reply. One equation for each form of a refusable instruction. -/

namespace Sys2Proof.Machine

/-- Applies `f` to the next state of an answer. -/
def mapNext (f : State → State) : Result → Result
  | .next s => .next (f s)
  | .fault r => .fault r
  | .refused r => .refused r

@[simp] theorem mapNext_next (f : State → State) (s : State) : mapNext f (.next s) = .next (f s) := rfl

theorem execWrId_active {s : State} (h : s.active = true) (k : Index) (d : Byte) :
    execWrId k d s = .next (giveNothing (raiseError .busy s)) := by simp [execWrId, h]

theorem execWrId_idle {s : State} (h : s.active = false) (k : Index) (d : Byte) :
    execWrId k d s = .next (giveNothing (writeId k d s)) := by simp [execWrId, h]

theorem execCmdStart_busy {s : State} (h : s.busy = true) :
    execCmdStart s = .next (giveNothing (raiseError .busy s)) := by simp [execCmdStart, h]

theorem execCmdStart_idle {s : State} (h : s.busy = false) :
    execCmdStart s = .next (giveNothing (enableEngine .all (freshDerivation s))) := by simp [execCmdStart, h]

theorem execCmdInit_busy {s : State} (h : s.busy = true) :
    execCmdInit s = .next (giveNothing (raiseError .busy s)) := by simp [execCmdInit, h]

theorem execCmdInit_idle {s : State} (h : s.busy = false) :
    execCmdInit s = .next (giveNothing (freshDerivation s)) := by simp [execCmdInit, h]

theorem execCmdStep_busy {s : State} (h : s.busy = true) :
    execCmdStep s = .next (giveNothing (raiseError .busy s)) := by simp [execCmdStep, h]

theorem execCmdStep_finished {s : State} (h : s.busy = false) (h6 : s.stage = 6) :
    execCmdStep s = .next (giveNothing (raiseError .seq s)) := by simp [execCmdStep, h, h6]

theorem execCmdStep_idle {s : State} (h : s.busy = false) (h6 : s.stage ≠ 6) :
    execCmdStep s = .next (giveNothing (enableEngine .one s)) := by
  unfold execCmdStep; rw [if_neg (by simp [h]), if_neg h6]

/-- Everything a host instruction can do, as one of seven kinds of effect. -/
theorem exec_cases (i : Instr) (s : State) :
    (∃ r, exec i s = .next { s with reply := r }) ∨
    (∃ c r, exec i s = .next { s with errc := firstError s.errc c, reply := r }) ∨
    (∃ k d, i = .wrId k d ∧ s.active = false ∧ exec i s = .next (giveNothing (writeId k d s))) ∨
    (i = .cmdStart ∧ s.busy = false ∧ exec i s = .next (giveNothing (enableEngine .all (freshDerivation s)))) ∨
    (i = .cmdInit ∧ s.busy = false ∧ exec i s = .next (giveNothing (freshDerivation s))) ∨
    (i = .cmdStep ∧ s.busy = false ∧ s.stage ≠ 6 ∧ exec i s = .next (giveNothing (enableEngine .one s))) ∨
    (i = .cmdClear ∧ exec i s = .next (giveNothing (withdrawAndForgive (freshDerivation s)))) := by
  cases i with
  | wrId k d =>
    rcases Bool.eq_false_or_eq_true s.active with h | h
    · exact .inr (.inl ⟨.busy, none, execWrId_active h k d⟩)
    · exact .inr (.inr (.inl ⟨k, d, rfl, h, execWrId_idle h k d⟩))
  | cmdStart =>
    rcases Bool.eq_false_or_eq_true s.busy with h | h
    · exact .inr (.inl ⟨.busy, none, execCmdStart_busy h⟩)
    · exact .inr (.inr (.inr (.inl ⟨rfl, h, execCmdStart_idle h⟩)))
  | cmdInit =>
    rcases Bool.eq_false_or_eq_true s.busy with h | h
    · exact .inr (.inl ⟨.busy, none, execCmdInit_busy h⟩)
    · exact .inr (.inr (.inr (.inr (.inl ⟨rfl, h, execCmdInit_idle h⟩))))
  | cmdStep =>
    rcases Bool.eq_false_or_eq_true s.busy with h | h
    · exact .inr (.inl ⟨.busy, none, execCmdStep_busy h⟩)
    · by_cases h6 : s.stage = 6
      · exact .inr (.inl ⟨.seq, none, execCmdStep_finished h h6⟩)
      · exact .inr (.inr (.inr (.inr (.inr (.inl ⟨rfl, h, h6, execCmdStep_idle h h6⟩)))))
  | cmdClear => exact .inr (.inr (.inr (.inr (.inr (.inr ⟨rfl, rfl⟩)))))
  | cmdRsv d => exact .inr (.inl ⟨.illegal, none, rfl⟩)
  | illegal w =>
    cases h : writeBit w with
    | true => exact .inr (.inl ⟨.illegal, none, by simp [exec, execIllegal, h]; rfl⟩)
    | false => exact .inr (.inl ⟨.illegal, some 0x00, by simp [exec, execIllegal, h]; rfl⟩)
  | _ => exact .inl ⟨_, rfl⟩

/-- A host instruction answers a next state, in which the environment's fields are as they were. -/
theorem exec_next (i : Instr) (s : State) :
    ∃ t, exec i s = .next t ∧ t.resetHeld = s.resetHeld ∧ t.schedule = s.schedule ∧ t.freeCount = s.freeCount := by
  rcases exec_cases i s with ⟨r, h⟩ | ⟨c, r, h⟩ | ⟨k, d, -, -, h⟩ | ⟨-, -, h⟩ | ⟨-, -, h⟩ | ⟨-, -, -, h⟩ | ⟨-, h⟩ <;>
    exact ⟨_, h, rfl, rfl, rfl⟩

/-- No host instruction reads the schedule. -/
theorem exec_facing (i : Instr) (es : List Event) (s : State) :
    exec i (s.facing es) = mapNext (State.facing · es) (exec i s) := by
  cases i with
  | wrId k d =>
    cases h : s.active
    · exact (execWrId_idle (s := s.facing es) h k d).trans (by simp only [exec, execWrId_idle h]; rfl)
    · exact (execWrId_active (s := s.facing es) h k d).trans (by simp only [exec, execWrId_active h]; rfl)
  | cmdStart =>
    cases h : s.busy
    · exact (execCmdStart_idle (s := s.facing es) h).trans (by simp only [exec, execCmdStart_idle h]; rfl)
    · exact (execCmdStart_busy (s := s.facing es) h).trans (by simp only [exec, execCmdStart_busy h]; rfl)
  | cmdInit =>
    cases h : s.busy
    · exact (execCmdInit_idle (s := s.facing es) h).trans (by simp only [exec, execCmdInit_idle h]; rfl)
    · exact (execCmdInit_busy (s := s.facing es) h).trans (by simp only [exec, execCmdInit_busy h]; rfl)
  | cmdStep =>
    cases h : s.busy
    · by_cases h6 : s.stage = 6
      · exact (execCmdStep_finished (s := s.facing es) h h6).trans (by simp only [exec, execCmdStep_finished h h6]; rfl)
      · exact (execCmdStep_idle (s := s.facing es) h h6).trans (by simp only [exec, execCmdStep_idle h h6]; rfl)
    · exact (execCmdStep_busy (s := s.facing es) h).trans (by simp only [exec, execCmdStep_busy h]; rfl)
  | illegal w => cases h : writeBit w <;> simp [exec, execIllegal, h] <;> rfl
  | _ => rfl

end Sys2Proof.Machine
end

