-- ==== Sys2Proof/Laws/PerInstr.lean ====
section
/-! SUPPORT. Per-instruction facts about the encoding, one lemma a constructor: a well-formed instruction's word has `RSV = 00`
exactly when the instruction is not `ILLEGAL` (30_encoding.md R70, R79). -/

namespace Sys2Proof.Laws.EncodeShape

/-- The instruction is `ILLEGAL`. -/
def isIllegal : Instr → Bool
  | .illegal _ => true
  | _ => false

/-- The reserved bits of the word say whether the instruction is `ILLEGAL`. -/
def Statement (i : Instr) : Prop := i.wf = true → (rsvField (encode i) = 0b00 ↔ isIllegal i = false)

theorem of_readWord {i : Instr} {a : Addr} (h : encode i = readWord a) (hi : isIllegal i = false) : Statement i :=
  fun _ => by simp [h, hi, readWord]

theorem of_writeWord {i : Instr} {a : Addr} {d : Byte} (h : encode i = writeWord a d) (hi : isIllegal i = false) :
    Statement i := fun _ => by simp [h, hi, writeWord]

theorem rdId (k : Index) : Statement (.rdId k) := of_readWord rfl rfl
theorem wrId (k : Index) (d : Byte) : Statement (.wrId k d) := of_writeWord rfl rfl
theorem rdLic (k : Index) : Statement (.rdLic k) := of_readWord rfl rfl
theorem wrLic (k : Index) (d : Byte) : Statement (.wrLic k d) := of_writeWord rfl rfl
theorem rdWb (k : Index) : Statement (.rdWb k) := of_readWord rfl rfl
theorem wrWb (k : Index) (d : Byte) : Statement (.wrWb k d) := of_writeWord rfl rfl
theorem rdCmd : Statement .rdCmd := of_readWord rfl rfl
theorem rdStatus : Statement .rdStatus := of_readWord rfl rfl
theorem rdPoly : Statement .rdPoly := of_readWord rfl rfl
theorem rdSeed : Statement .rdSeed := of_readWord rfl rfl
theorem wrStatus (d : Byte) : Statement (.wrStatus d) := of_writeWord rfl rfl
theorem wrPoly (d : Byte) : Statement (.wrPoly d) := of_writeWord rfl rfl
theorem wrSeed (d : Byte) : Statement (.wrSeed d) := of_writeWord rfl rfl
theorem rdRsv (a : Addr) : Statement (.rdRsv a) := of_readWord rfl rfl
theorem wrRsv (a : Addr) (d : Byte) : Statement (.wrRsv a d) := of_writeWord rfl rfl
theorem cmdNop : Statement .cmdNop := of_writeWord rfl rfl
theorem cmdStart : Statement .cmdStart := of_writeWord rfl rfl
theorem cmdInit : Statement .cmdInit := of_writeWord rfl rfl
theorem cmdStep : Statement .cmdStep := of_writeWord rfl rfl
theorem cmdClear : Statement .cmdClear := of_writeWord rfl rfl
theorem cmdRsv (d : Byte) : Statement (.cmdRsv d) := of_writeWord rfl rfl
theorem illegal (w : BusWord) : Statement (.illegal w) := fun h => by
  simpa [Instr.wf, rsvField, encode, isIllegal] using h

end Sys2Proof.Laws.EncodeShape
end

