-- ==== Sys2Proof/Laws/Step.lean ====
section
/-! SUPPORT. What one event and one step can do, and how a run over a list of events is cut into single events. -/

namespace Sys2Proof.Machine

/-! ### The engine's turn -/

theorem stageStep_next {s : State} (h : s.stage.toNat < 6) :
    stageStep s = .next (runStage ⟨s.stage.toNat, h⟩ s) := by simp [stageStep, h]

theorem engineTurn_idle {s : State} (h : s.busy = false) : engineTurn s = .next s := by simp [engineTurn, h]

theorem engineTurn_held {s : State} (h : s.resetHeld = true) : engineTurn s = .next s := by simp [engineTurn, h]

theorem engineTurn_due {s : State} (hb : s.busy = true) (hr : s.resetHeld = false) :
    engineTurn s = stageStep s := by simp [engineTurn, hb, hr]

/-- Everything the engine's turn can do. -/
theorem engineTurn_cases (s : State) :
    ((s.busy && !s.resetHeld) = false ∧ engineTurn s = .next s) ∨
    (∃ h : s.stage.toNat < 6, s.busy = true ∧ s.resetHeld = false ∧
      engineTurn s = .next (runStage ⟨s.stage.toNat, h⟩ s)) ∨
    (6 ≤ s.stage.toNat ∧ s.busy = true ∧ s.resetHeld = false ∧ engineTurn s = .fault .stageOutOfRange) := by
  cases hb : s.busy with
  | false => exact .inl ⟨by simp, engineTurn_idle hb⟩
  | true =>
    cases hr : s.resetHeld with
    | true => exact .inl ⟨by simp, engineTurn_held hr⟩
    | false =>
      by_cases h : s.stage.toNat < 6
      · exact .inr (.inl ⟨h, rfl, rfl, (engineTurn_due hb hr).trans (stageStep_next h)⟩)
      · exact .inr (.inr ⟨by omega, rfl, rfl, (engineTurn_due hb hr).trans (by simp [stageStep, h])⟩)

theorem engineTurn_facing (es : List Event) (s : State) :
    engineTurn (s.facing es) = mapNext (State.facing · es) (engineTurn s) := by
  rcases engineTurn_cases s with ⟨h, e⟩ | ⟨h, hb, hr, e⟩ | ⟨h, hb, hr, e⟩
  · rw [e]; simp [engineTurn, h]
  · rw [e, engineTurn_due (s := s.facing es) hb hr, stageStep_next (s := s.facing es) h]; rfl
  · rw [e, engineTurn_due (s := s.facing es) hb hr]; simp [stageStep, Nat.not_lt.2 h, mapNext]

/-! ### The host's turn -/

theorem hostTurn_released {s : State} (h : s.resetHeld = false) (w : BusWord) :
    hostTurn w s = exec (decode w) s := by simp [hostTurn, h]

theorem hostTurn_held {s : State} (h : s.resetHeld = true) (w : BusWord) :
    hostTurn w s = .next (overlapReset (writeBit w) s) := by simp [hostTurn, h]

/-- A word that overlaps reset changes the reply and the count of free values, and nothing else. -/
theorem overlapReset_eq (b : Bool) (s : State) :
    overlapReset b s =
      { s with reply := (overlapReset b s).reply, freeCount := (overlapReset b s).freeCount } := by
  cases b <;> rfl

theorem hostTurn_facing (w : BusWord) (es : List Event) (s : State) :
    hostTurn w (s.facing es) = mapNext (State.facing · es) (hostTurn w s) := by
  cases h : s.resetHeld with
  | false => rw [hostTurn_released h, hostTurn_released (s := s.facing es) h, exec_facing]
  | true =>
    rw [hostTurn_held h, hostTurn_held (s := s.facing es) h]
    cases writeBit w <;> rfl

/-! ### One event -/

/-- No event's effect reads or writes the rest of the schedule. -/
theorem perform_facing (e : Event) (es : List Event) (s : State) :
    perform e (s.facing es) = mapNext (State.facing · es) (perform e s) := by
  cases e with
  | word w => exact hostTurn_facing w es s
  | engine => exact engineTurn_facing es s
  | resetAssert => rfl
  | resetRelease => rfl

theorem step_nil {s : State} (h : s.schedule = []) : step s = engineTurn s := by simp [step, takeTurn, h]

theorem step_cons {s : State} {e : Event} {es : List Event} (h : s.schedule = e :: es) :
    step s = perform e (s.facing es) := by simp only [step, takeTurn, h]; rfl

/-! ### Runs -/

theorem runFor_next {s t : State} (n : Nat) (h : step s = .next t) : runFor (n + 1) s = runFor n t := by
  have h' : Sys2Proof.core.step s = .next t := h
  exact (Host.Core.run.eq_2 Sys2Proof.core s n).trans (by rw [h'])

theorem runFor_fault {s : State} {r : Fault} (n : Nat) (h : step s = .fault r) : runFor (n + 1) s = .fault r := by
  have h' : Sys2Proof.core.step s = .fault r := h
  exact (Host.Core.run.eq_2 Sys2Proof.core s n).trans (by rw [h']; rfl)

theorem runFor_refused {s : State} {r : Refusal} (n : Nat) (h : step s = .refused r) :
    runFor (n + 1) s = .refused r := by
  have h' : Sys2Proof.core.step s = .refused r := h
  exact (Host.Core.run.eq_2 Sys2Proof.core s n).trans (by rw [h']; rfl)

theorem runThrough_nil (s : State) : runThrough [] s = .next (s.facing []) := rfl

/-- A run over a list of events is its first event and the run over the rest. -/
theorem runThrough_cons_eq (e : Event) (es : List Event) (s : State) :
    runThrough (e :: es) s = match perform e s with
      | .next t => runThrough es t
      | .fault r => .fault r
      | .refused r => .refused r := by
  show runFor (es.length + 1) (s.facing (e :: es)) = _
  have hs : step (s.facing (e :: es)) = mapNext (State.facing · es) (perform e s) :=
    (step_cons (s := s.facing (e :: es)) rfl).trans (perform_facing e es s)
  cases hp : perform e s with
  | next t => exact runFor_next es.length (hs.trans (by rw [hp]; rfl))
  | fault r => exact runFor_fault es.length (hs.trans (by rw [hp]; rfl))
  | refused r => exact runFor_refused es.length (hs.trans (by rw [hp]; rfl))

/-- The first event of a run that answers a next state. -/
theorem runThrough_cons {e : Event} {s t : State} (es : List Event) (h : perform e s = .next t) :
    runThrough (e :: es) s = runThrough es t := by
  rw [runThrough_cons_eq, h]

/-- A run that answers a next state has a first event that does. -/
theorem runThrough_cons_inv {e : Event} {s u : State} {es : List Event} (h : runThrough (e :: es) s = .next u) :
    ∃ t, perform e s = .next t ∧ runThrough es t = .next u := by
  rw [runThrough_cons_eq] at h
  cases hp : perform e s with
  | next t => rw [hp] at h; exact ⟨t, rfl, h⟩
  | fault r => rw [hp] at h; cases h
  | refused r => rw [hp] at h; cases h

theorem runThrough_append {es : List Event} {s t : State} (fs : List Event) (h : runThrough es s = .next t) :
    runThrough (es ++ fs) s = runThrough fs t := by
  induction es generalizing s with
  | nil =>
    cases h
    rfl
  | cons e es ih =>
    obtain ⟨u, hu, hr⟩ := runThrough_cons_inv h
    rw [List.cons_append, runThrough_cons (es ++ fs) hu, ih hr]

/-- Everything a step can do, by whose turn it is. -/
theorem step_cases {s t : State} (h : step s = .next t) :
    (s.schedule = [] ∧ engineTurn s = .next t) ∨
    ∃ e rest, s.schedule = e :: rest ∧ perform e (s.facing rest) = .next t := by
  cases hs : s.schedule with
  | nil => exact .inl ⟨rfl, (step_nil hs).symm.trans h⟩
  | cons e rest => exact .inr ⟨e, rest, rfl, (step_cons hs).symm.trans h⟩

end Sys2Proof.Machine
end

