-- ==== Sys2Proof/Tests/Slice0.lean ====
section
/-! SUPPORT. Tests of the model against values the spec prints (95_test_vectors.md and the worked values of the rules), and for
every obligation with hypotheses a witness that meets them all. -/

namespace Sys2Proof.Tests

open Sys2Proof.Machine

-- One theorem at a time: each check of a closed fact would otherwise hold a thread and its stack of its own.
set_option Elab.async false

/-- The next state, where there is one. -/
def after (r : Result) : Option State :=
  match r with
  | .next s => some s
  | .fault _ => none
  | .refused _ => none

/-! ## Well-formedness: an ill-formed term for each check -/

theorem test_wf_refuses_read_of_named_address : (Instr.rdRsv 0x00).wf = false := by decide +kernel
theorem test_wf_refuses_write_of_named_address : (Instr.wrRsv 0x18 0x01).wf = false := by decide +kernel
theorem test_wf_refuses_named_command : (Instr.cmdRsv 0x04).wf = false := by decide +kernel
theorem test_wf_refuses_legal_word_as_illegal : (Instr.illegal 0x9801).wf = false := by decide +kernel
theorem test_wf_accepts_boundaries :
    (Instr.rdRsv 0x06).wf = true ∧ (Instr.wrRsv 0x1F 0xAA).wf = true ∧ (Instr.cmdRsv 0x05).wf = true ∧
      (Instr.illegal 0x2000).wf = true := by decide +kernel

/-! ## Decoding: one word a constructor, written bit by bit as `W RSV A D` from 30_encoding.md R70 and R74 -/

theorem test_decode_rdId : decode 0b0_00_00101_11111111 = .rdId 5 := by decide +kernel
theorem test_decode_wrId : decode 0b1_00_00101_11001111 = .wrId 5 0xCF := by decide +kernel
theorem test_decode_rdLic : decode 0b0_00_01101_00000000 = .rdLic 5 := by decide +kernel
theorem test_decode_wrLic : decode 0b1_00_01000_11111111 = .wrLic 0 0xFF := by decide +kernel
theorem test_decode_rdWb : decode 0b0_00_10101_10101010 = .rdWb 5 := by decide +kernel
theorem test_decode_wrWb : decode 0b1_00_10000_00000000 = .wrWb 0 0x00 := by decide +kernel
theorem test_decode_rdCmd : decode 0b0_00_11000_10101011 = .rdCmd := by decide +kernel
theorem test_decode_rdStatus : decode 0b0_00_11001_00000000 = .rdStatus := by decide +kernel
theorem test_decode_rdPoly : decode 0b0_00_11010_00000000 = .rdPoly := by decide +kernel
theorem test_decode_rdSeed : decode 0b0_00_11011_00000000 = .rdSeed := by decide +kernel
theorem test_decode_wrStatus : decode 0b1_00_11001_00000000 = .wrStatus 0x00 := by decide +kernel
theorem test_decode_wrPoly : decode 0b1_00_11010_00011101 = .wrPoly 0x1D := by decide +kernel
theorem test_decode_wrSeed : decode 0b1_00_11011_00000000 = .wrSeed 0x00 := by decide +kernel
theorem test_decode_rdRsv : decode 0b0_00_00110_00000000 = .rdRsv 0x06 := by decide +kernel
theorem test_decode_wrRsv : decode 0b1_00_11111_10101010 = .wrRsv 0x1F 0xAA := by decide +kernel
theorem test_decode_cmdNop : decode 0b1_00_11000_00000000 = .cmdNop := by decide +kernel
theorem test_decode_cmdStart : decode 0b1_00_11000_00000001 = .cmdStart := by decide +kernel
theorem test_decode_cmdInit : decode 0b1_00_11000_00000010 = .cmdInit := by decide +kernel
theorem test_decode_cmdStep : decode 0b1_00_11000_00000011 = .cmdStep := by decide +kernel
theorem test_decode_cmdClear : decode 0b1_00_11000_00000100 = .cmdClear := by decide +kernel
theorem test_decode_cmdRsv : decode 0b1_00_11000_00000101 = .cmdRsv 0x05 := by decide +kernel
theorem test_decode_illegal : decode 0b1_01_11000_00000001 = .illegal 0xB801 := by decide +kernel

/-- 95_test_vectors.md section 2.6: neighbours that must not be taken for named registers. -/
theorem test_decode_reserved_neighbours :
    decode 0x8600 = .wrRsv 0x06 0x00 ∧ decode 0x0E00 = .rdRsv 0x0E ∧ decode 0x1C00 = .rdRsv 0x1C ∧
      decode 0x1F00 = .rdRsv 0x1F ∧ decode 0x4000 = .illegal 0x4000 ∧ decode 0xFFFF = .illegal 0xFFFF := by
  decide +kernel

theorem test_decodeTableWord :
    decodeTableWord 16 0x85CF = some (.wrId 5 0xCF) ∧ decodeTableWord 16 0x10000 = none ∧
      decodeTableWord 24 0x9801 = none := by decide +kernel

/-- The words of program P1 (95_test_vectors.md section 3). -/
theorem test_encode_program_words :
    encode (.wrId 1 0x91) = 0x8191 ∧ encode .cmdStart = 0x9801 ∧ encode .rdStatus = 0x1900 ∧
      encode (.rdLic 4) = 0x0C00 := by decide +kernel

/-- 95_test_vectors.md section 2.6 against the opcode table's rows. -/
theorem test_opcodeTable_row : (opcodeTable.filter fun r => r.covers 0x98FF).map OpcodeRow.mnemonic = ["CMD.RSV"] := by
  decide +kernel

/-! ## The datapath: 95_test_vectors.md sections 2.1 to 2.4 -/

theorem test_bitstep : bitstep 0x40 = 0x80 ∧ bitstep 0xC0 = 0x87 ∧ bitstep 0xCD = 0x9D := by decide +kernel

theorem test_bytestep : bytestep 0xCD 0x40 = 0xAA ∧ bytestep 0xCD 0x19 = 0x22 ∧ bytestep 0xCD 0xCD = 0x00 := by
  decide +kernel

theorem test_crcFrom_accumulators :
    crcFrom 0xCD [0x40, 0x56, 0xAD] = 0xA2 ∧ crcFrom 0xCD [0x40, 0x56, 0xAD, 0xC0, 0xB3] = 0xCF := by decide +kernel

theorem test_crc8 : crc8 #v[0x40, 0x56, 0xAD, 0xC0, 0xB3, 0xF3] = 0xB4 := by decide +kernel

/-- 40_checksum.md R109: the published check value, seed 0 over "123456789". -/
theorem test_published_check_value :
    crcFrom 0x00 [0x31, 0x32, 0x33, 0x34, 0x35, 0x36, 0x37, 0x38, 0x39] = 0xF4 := by decide +kernel

/-- Section 2.3: entries of the printed table. -/
theorem test_byteTable : byteTable[0x80]? = some (bytestep 0x00 0x80) ∧ byteTable[0xFF]? = some (bytestep 0x00 0xFF) := by
  decide +kernel

/-! ## The cascade: section 2.5 -/

/-- `ID` of vector V1. -/
def v1 : Bytes6 := #v[0x40, 0x91, 0x51, 0x64, 0x39, 0xCF]

theorem test_derive_V1 : derive v1 = [0xB4, 0xC2, 0x29, 0xCA, 0xFE, 0x4A] := by decide +kernel
theorem test_derive_V5 : derive #v[1, 2, 3, 4, 5, 6] = [0xEB, 0x9E, 0xA5, 0x83, 0xB2, 0x77] := by decide +kernel
theorem test_derive_V6 : derive #v[0x80, 0, 0, 0, 0, 0] = [0x2E, 0x9F, 0x9E, 0x13, 0x63, 0xB4] := by decide +kernel
theorem test_derive_V7 :
    derive #v[0x40, 0x91, 0x51, 0x64, 0x39, 0xCE] = [0xB4, 0xC2, 0x29, 0xCA, 0xFE, 0x4D] := by decide +kernel
theorem test_derive_V8 :
    derive #v[0x41, 0x91, 0x51, 0x64, 0x39, 0xCF] = [0x9D, 0xEB, 0x00, 0xE3, 0xD7, 0x63] := by decide +kernel

/-! ## Small states -/

/-- After `n` stages of the derivation of `V1`'s identifier, the next one pending. -/
def pendingAt (n : Nat) (m : Mode) : State :=
  { State.reset with
    id := v1
    wb := Vector.ofFn fun (k : Index) => if k.val < n then v1[k] else Config.template[k]
    lic := Vector.ofFn fun (k : Index) => if k.val < n then crc8 (mixed v1 k) else 0x00
    stage := BitVec.ofNat 3 n, busy := true, mode := m }

/-- After `n` of its stages, idle. -/
def idleAt (n : Nat) : State := { pendingAt n .one with busy := false, done := n == 6 }

/-- With the derivation finished. -/
def finished : State := idleAt 6

/-- `s` with `e` next. -/
def before (e : Event) (s : State) : State := { s with schedule := [e] }

/-- The status byte and the four identifier and result fields that section 2.7 lists, after `r`. -/
def seen (r : Result) : Option (Byte × Bool × Bytes6 × Bytes6 × Bytes6) :=
  (after r).map fun s => (s.status, s.mode == .all, s.id, s.wb, s.lic)

/-! ## Stage steps: section 2.7 -/

theorem test_stage0_runAll :
    (after (engineTurn (pendingAt 0 .all))).map (fun s => (s.status, s.wb, s.lic)) =
      some (0x09, #v[0x40, 0x56, 0xAD, 0xC0, 0xB3, 0xF3], #v[0xB4, 0, 0, 0, 0, 0]) := by decide +kernel

theorem test_stage0_single : (after (engineTurn (pendingAt 0 .one))).map State.status = some 0x08 := by decide +kernel

theorem test_stage5_finishes :
    (after (engineTurn (pendingAt 5 .all))).map (fun s => (s.status, s.wb, s.lic)) =
      some (0x32, v1, #v[0xB4, 0xC2, 0x29, 0xCA, 0xFE, 0x4A]) := by decide +kernel

/-! ## Commands: section 2.7, from the state shown there -/

theorem test_start_after_reset :
    seen (exec .cmdStart State.reset) = some (0x01, true, zeros, Config.template, zeros) := by decide +kernel
theorem test_start_restarts_part_done :
    seen (exec .cmdStart (idleAt 1)) = some (0x01, true, v1, Config.template, zeros) := by decide +kernel
theorem test_init_after_finish :
    seen (exec .cmdInit finished) = some (0x00, false, v1, Config.template, zeros) := by decide +kernel
theorem test_init_while_busy : (after (exec .cmdInit (pendingAt 1 .all))).map State.status = some 0x8D := by decide +kernel
theorem test_step_after_reset :
    seen (exec .cmdStep State.reset) = some (0x01, false, zeros, Config.template, zeros) := by decide +kernel
theorem test_step_after_last : (after (exec .cmdStep finished)).map State.status = some 0xF6 := by decide +kernel
theorem test_nop_while_busy : (after (exec .cmdNop (pendingAt 1 .all))).map State.status = some 0x09 := by decide +kernel
theorem test_clear_withdraws :
    seen (exec .cmdClear { pendingAt 1 .all with errc := .busy }) = some (0x00, true, v1, Config.template, zeros) := by
  decide +kernel
theorem test_cmdRsv_records : (after (exec (.cmdRsv 0x05) finished)).map State.status = some 0x76 := by decide +kernel
theorem test_cmdRsv_first_error_wins :
    (after (exec (.cmdRsv 0x07) { idleAt 1 with errc := .busy })).map State.status = some 0x8C := by decide +kernel

/-! ## Register access: sections 2.7 and 3 -/

theorem test_wrId_refused_part_done :
    (after (exec (.wrId 1 0xAA) (idleAt 1))).map (fun s => (s.status, s.id)) = some (0x8C, v1) := by decide +kernel
theorem test_wrId_after_finish :
    (after (exec (.wrId 1 0xAA) finished)).map (fun s => (s.status, s.id, s.wb)) =
      some (0x32, #v[0x40, 0xAA, 0x51, 0x64, 0x39, 0xCF], v1) := by decide +kernel
theorem test_rdId : (after (exec (.rdId 3) finished)).map State.reply = some (some 0x64) := by decide +kernel
theorem test_rdLic : (after (exec (.rdLic 4) finished)).map State.reply = some (some 0xFE) := by decide +kernel
theorem test_rdWb : (after (exec (.rdWb 2) (idleAt 1))).map State.reply = some (some 0xAD) := by decide +kernel
theorem test_rdStatus : (after (exec .rdStatus finished)).map State.reply = some (some 0x32) := by decide +kernel
theorem test_rdCmd : (after (exec .rdCmd finished)).map State.reply = some (some 0x00) := by decide +kernel
theorem test_rdPoly : (after (exec .rdPoly finished)).map State.reply = some (some 0x07) := by decide +kernel
theorem test_rdSeed : (after (exec .rdSeed finished)).map State.reply = some (some 0xCD) := by decide +kernel
theorem test_rdRsv : (after (exec (.rdRsv 0x0F) finished)).map State.reply = some (some 0x00) := by decide +kernel
theorem test_wrLic_ignored : after (exec (.wrLic 0 0xFF) finished) = some finished := by decide +kernel
theorem test_wrWb_ignored : after (exec (.wrWb 5 0xFF) finished) = some finished := by decide +kernel
theorem test_wrStatus_clears_nothing :
    (after (exec (.wrStatus 0x00) { finished with errc := .seq })).map State.status = some 0xF6 := by decide +kernel
theorem test_wrPoly_ignored : after (exec (.wrPoly 0x1D) finished) = some finished := by decide +kernel
theorem test_wrSeed_ignored : after (exec (.wrSeed 0x00) finished) = some finished := by decide +kernel
theorem test_wrRsv_ignored : after (exec (.wrRsv 0x06 0xAA) finished) = some finished := by decide +kernel
theorem test_illegal_read_shaped :
    (after (exec (.illegal 0x2000) finished)).map (fun s => (s.status, s.reply)) = some (0x76, some 0x00) := by
  decide +kernel
theorem test_illegal_starts_nothing :
    (after (exec (.illegal 0xB801) { finished with errc := .seq })).map State.status = some 0xF6 := by decide +kernel

/-! ## Reset (section 2.8) and the step -/

theorem test_reset_event :
    (after (step (before .resetAssert (pendingAt 3 .all)))).map
      (fun s => (s.status, s.id, s.wb, s.lic, s.resetHeld)) = some (0x00, zeros, Config.template, zeros, true) := by
  decide +kernel

theorem test_step_runs_fetch_word :
    (after (step (State.reset.withFetchWord 16 0x85CF))).map (fun s => (s.id, s.schedule)) =
      some (#v[0, 0, 0, 0, 0, 0xCF], []) := by decide +kernel

theorem test_step_takes_pending_stage : (after (step (pendingAt 1 .all))).map State.status = some 0x11 := by
  decide +kernel

theorem test_word_while_reset_held :
    (after (step (before (.word 0x9801) { State.reset with resetHeld := true }))).map State.busy = some false := by
  decide +kernel

/-! ## The host's text: 30_encoding.md R81, R82 and the words of section 3 -/

/-- The words of a program's lines, every wait one read; none where a line does not read. -/
def words (lines : List String) : Option (List BusWord) :=
  (Asm.program (lines.map String.toList)).map (Asm.programWords fun _ _ => 0)

theorem test_program_text :
    words ["wr ID0, 0x40     # 0x8040", "", "cmd START", "wait", "rd LIC0", ".word 0xB801", "cmd 0x07", "rd 0x1F"] =
      some [0x8040, 0x9801, 0x1900, 0x0800, 0xB801, 0x9807, 0x1F00] := by decide +kernel

theorem test_macro_text :
    words ["setid 40:91:51:64:39:CF", "getlic"] =
      some [0x8040, 0x8191, 0x8251, 0x8364, 0x8439, 0x85CF, 0x0800, 0x0900, 0x0A00, 0x0B00, 0x0C00, 0x0D00] := by
  decide +kernel

/-- Lines of programs P3 and P4, with `;` between statements (log 18). -/
theorem test_semicolon_text :
    words ["cmd STEP ; wait      # five times: 0x9803, 0x1900...", "wr ID3, 0xC0 ; wr ID4, 0xB3 ; wr ID5, 0xF3"] =
      some [0x9803, 0x1900, 0x83C0, 0x84B3, 0x85F3] := by decide +kernel

/-- `wr CMD` is the command's word (log 20). -/
theorem test_wr_cmd_text : words ["wr CMD, 0x01", "wr lic0, 255"] = some [0x9801, 0x88FF] := by decide +kernel

theorem test_text_refused : words ["wr ID6, 0x40"] = none ∧ words ["wr ID0, 256"] = none := by decide +kernel

theorem test_disassemble :
    Asm.disassemble 0x05FF = .rd (.id 5) ∧ Asm.disassemble 0x9804 = .cmd .clear ∧
      Asm.disassemble 0x9805 = .cmdCode 0x05 ∧ Asm.disassemble 0x9FAA = .wrAt 0x1F 0xAA ∧
      Asm.disassemble 0x2000 = .word 0x2000 := by decide +kernel

/-! ## Witnesses: states and operands that meet the hypotheses of the obligations, together -/

theorem consistent_reset : Consistent State.reset :=
  ⟨by decide +kernel, by decide +kernel, by decide +kernel, by decide +kernel, by decide +kernel, by decide +kernel⟩

theorem consistent_pending_first : Consistent (pendingAt 0 .all) :=
  ⟨by decide +kernel, by decide +kernel, by decide +kernel, by decide +kernel, by decide +kernel, by decide +kernel⟩

theorem consistent_pending_last : Consistent (pendingAt 5 .all) :=
  ⟨by decide +kernel, by decide +kernel, by decide +kernel, by decide +kernel, by decide +kernel, by decide +kernel⟩

theorem consistent_idle : Consistent (idleAt 3) :=
  ⟨by decide +kernel, by decide +kernel, by decide +kernel, by decide +kernel, by decide +kernel, by decide +kernel⟩

theorem consistent_finished : Consistent finished :=
  ⟨by decide +kernel, by decide +kernel, by decide +kernel, by decide +kernel, by decide +kernel, by decide +kernel⟩

/-- `s` again, with `es` to come. -/
theorem consistent_facing {s : State} (h : Consistent s) (es : List Event) : Consistent (s.facing es) :=
  ⟨h.stage_range, h.busy_range, h.done_iff, h.ahead, h.produced, h.copied⟩

/-! ### Encoding -/

theorem witness_DecodeOfEncode :
    (Instr.rdRsv 0x1F).wf = true ∧ (Instr.wrRsv 0x06 0xFF).wf = true ∧ (Instr.cmdRsv 0xFF).wf = true ∧
      (Instr.illegal 0xFFFF).wf = true ∧ (Instr.wrId 5 0xFF).wf = true := by decide +kernel

theorem witness_OpcodeMapByRanges :
    (0x1F : Addr) ∈ ([0x06, 0x07, 0x0E, 0x0F, 0x16, 0x17, 0x1C, 0x1D, 0x1E, 0x1F] : List Addr) ∧
      0x05 ≤ (0x05 : Byte).toNat ∧ 0x05 ≤ (0xFF : Byte).toNat ∧ (0x2000 : BusWord).extractLsb' 13 2 ≠ 0b00 ∧
      (0xFFFF : BusWord).extractLsb' 13 2 ≠ 0b00 := by decide +kernel

theorem witness_IllegalWords :
    (0x2000 : BusWord).extractLsb' 13 2 ≠ 0b00 ∧ (0xC000 : BusWord).extractLsb' 13 2 ≠ 0b00 ∧
      (0xFFFF : BusWord).extractLsb' 13 2 ≠ 0b00 := by decide +kernel

theorem witness_reserved_addresses :
    (0x06 : Addr) ∈ ([0x06, 0x07, 0x0E, 0x0F, 0x16, 0x17, 0x1C, 0x1D, 0x1E, 0x1F] : List Addr) ∧
      (0x1C : Addr) ∈ ([0x06, 0x07, 0x0E, 0x0F, 0x16, 0x17, 0x1C, 0x1D, 0x1E, 0x1F] : List Addr) := by decide +kernel

theorem witness_CommandReserved : 0x05 ≤ (0x05 : Byte).toNat ∧ 0x05 ≤ (0xFF : Byte).toNat := by decide +kernel

/-! ### Datapath and cascade -/

theorem witness_ChecksumIsAffine : (0xFF : Byte) ≠ 0x00 ∧ (0xCE : Byte) ≠ v1[(5 : Index)] ∧ (0x41 : Byte) ≠ v1[(0 : Index)] := by
  decide +kernel

theorem witness_StageStepEffect :
    ((pendingAt 0 .one).stage = BitVec.ofNat 3 (0 : Index).val ∧ (pendingAt 0 .one).resetHeld = false ∧
      (pendingAt 0 .one).busy = true) ∧
    ((pendingAt 5 .all).stage = BitVec.ofNat 3 (5 : Index).val ∧ (pendingAt 5 .all).resetHeld = false ∧
      (pendingAt 5 .all).busy = true) ∧ finished.busy = false := by decide +kernel

theorem witness_SnapshotAfterStage_first :
    Consistent (pendingAt 0 .all) ∧ (pendingAt 0 .all).stage = BitVec.ofNat 3 (0 : Index).val ∧
      (pendingAt 0 .all).busy = true ∧ (pendingAt 0 .all).resetHeld = false :=
  ⟨consistent_pending_first, by decide +kernel, by decide +kernel, by decide +kernel⟩

theorem witness_SnapshotAfterStage_last :
    Consistent (pendingAt 5 .all) ∧ (pendingAt 5 .all).stage = BitVec.ofNat 3 (5 : Index).val ∧
      (pendingAt 5 .all).busy = true ∧ (pendingAt 5 .all).resetHeld = false :=
  ⟨consistent_pending_last, by decide +kernel, by decide +kernel, by decide +kernel⟩

/-- An interleaving with five turns of the engine, polls and a refused write. -/
def interleaving : List Event :=
  [.engine, hostEvent .rdStatus, .engine, .engine, hostEvent (.wrId 0 0x00), .engine, .resetRelease, .engine]

theorem witness_RunAllProgress_bounds :
    (finished.busy = false ∧ finished.resetHeld = false) ∧
      (interleaving.all keepsRunning = true ∧ engineTurns interleaving ≤ 5) ∧
      (([] : List Event).all keepsRunning = true ∧ engineTurns [] ≤ 5) := by decide +kernel

theorem witness_RunAllEndsWithDerive :
    finished.busy = false ∧ finished.resetHeld = false ∧ interleaving.all keepsRunning = true ∧
      engineTurns interleaving = 5 := by decide +kernel

theorem witness_SixStepsEqualStart :
    (idleAt 3).busy = false ∧ (idleAt 3).resetHeld = false ∧ interleaving.all keepsRunning = true ∧
      engineTurns interleaving = 5 := by decide +kernel

theorem witness_SensitivityOfDerive :
    v1[(0 : Index)] ≠ (v1.set 0 0x41)[(0 : Index)] ∧
      (∀ j : Index, j ≠ 0 → v1[j] = (v1.set 0 0x41)[j]) ∧ (0 : Index) ≤ 5 := by decide +kernel

theorem witness_SensitivityOfDerive_last :
    v1[(5 : Index)] ≠ (v1.set 5 0xCE)[(5 : Index)] ∧
      (∀ j : Index, j ≠ 5 → v1[j] = (v1.set 5 0xCE)[j]) ∧ (0 : Index) < 5 := by decide +kernel

theorem witness_OutputByteDependsOnPrefix :
    (∀ j : Index, j ≤ 4 → v1[j] = (v1.set 5 0xCE)[j]) ∧ (0xCE : Byte) ≠ v1[(5 : Index)] := by decide +kernel

theorem witness_NoStateBetweenDerivations :
    finished.id = (idleAt 3).id ∧ finished.busy = false ∧ (idleAt 3).busy = false ∧ finished.resetHeld = false ∧
      (idleAt 3).resetHeld = false := by decide +kernel

/-! ### Register access and commands -/

theorem witness_WriteIdentifier_refused :
    ActiveByRule (pendingAt 0 .all) ∧ ActiveByRule (idleAt 1) ∧ ActiveByRule (idleAt 5) :=
  ⟨by unfold ActiveByRule; decide +kernel, by unfold ActiveByRule; decide +kernel,
    by unfold ActiveByRule; decide +kernel⟩

theorem witness_WriteIdentifier_stored : ¬ ActiveByRule State.reset ∧ ¬ ActiveByRule finished :=
  ⟨by unfold ActiveByRule; decide +kernel, by unfold ActiveByRule; decide +kernel⟩

theorem witness_ReadLicenseAndBuffer_before : Consistent (idleAt 3) ∧ (idleAt 3).stage.toNat ≤ (3 : Index).val :=
  ⟨consistent_idle, by decide +kernel⟩

theorem consistent_idle_last : Consistent (idleAt 5) :=
  ⟨by decide +kernel, by decide +kernel, by decide +kernel, by decide +kernel, by decide +kernel, by decide +kernel⟩

theorem witness_ReadLicenseAndBuffer_part_done :
    Consistent (idleAt 5) ∧ (idleAt 5).stage.toNat ≤ 5 ∧ (4 : Index).val < (idleAt 5).stage.toNat ∧
      (0 : Index).val < (idleAt 5).stage.toNat :=
  ⟨consistent_idle_last, by decide +kernel, by decide +kernel, by decide +kernel⟩

theorem witness_ReadLicenseAndBuffer_after :
    Consistent finished ∧ finished.busy = false ∧ finished.done = true ∧ finished.wb = finished.id :=
  ⟨consistent_finished, by decide +kernel, by decide +kernel, by decide +kernel⟩

theorem witness_ReadStatus_finished :
    finished.stage = 6 ∧ finished.done = true ∧ finished.busy = false ∧ finished.errc = .none := by decide +kernel

theorem witness_ReadStatus_busy :
    (pendingAt 5 .all).busy = true ∧ (pendingAt 5 .all).done = false ∧ (pendingAt 5 .all).errc = .none := by
  decide +kernel

theorem witness_ReadStatus_errors :
    { finished with errc := .illegal }.errc = .illegal ∧ { finished with errc := .busy }.errc = .busy ∧
      { finished with errc := .seq }.errc = .seq := ⟨rfl, rfl, rfl⟩

theorem witness_CommandStart : (pendingAt 0 .one).busy = true ∧ (idleAt 3).busy = false := by decide +kernel

theorem witness_CommandInit : (pendingAt 5 .all).busy = true ∧ finished.busy = false := by decide +kernel

theorem witness_CommandStep :
    (pendingAt 0 .one).busy = true ∧ (finished.busy = false ∧ finished.stage = 6) ∧
      ((idleAt 5).busy = false ∧ (idleAt 5).stage ≠ 6) := by decide +kernel

theorem witness_CommandClear :
    Instr.cmdStart ≠ .cmdClear ∧ { finished with errc := .seq }.errc ≠ .none ∧
      after (exec .cmdStart { finished with errc := .seq }) ≠ none := by decide +kernel

/-! ### Errors -/

theorem witness_ErrorCausesAndRecording_raised :
    Raises (.illegal 0x2000) finished .illegal ∧ Raises (.cmdRsv 0x05) finished .illegal ∧
      Raises .cmdStart (pendingAt 0 .all) .busy ∧ Raises (.wrId 0 0xFF) (idleAt 5) .busy ∧
      Raises .cmdStep finished .seq :=
  ⟨.inl ⟨_, rfl⟩, .inr ⟨_, rfl⟩, .inl ⟨.inl rfl, by decide +kernel⟩,
    .inr ⟨⟨_, _, rfl⟩, by unfold ActiveByRule; decide +kernel⟩, rfl, by decide +kernel, by decide +kernel⟩

theorem witness_ErrorCausesAndRecording_none : ∀ c : ErrCode, ¬ Raises .cmdNop State.reset c := by
  intro c
  cases c <;> simp [Raises]

theorem witness_RecordedErrorStays :
    (before (hostEvent .cmdClear) { finished with errc := .seq }).errc ≠ .none ∧
      after (step (before (hostEvent .cmdClear) { finished with errc := .seq })) ≠ none := by decide +kernel

theorem witness_ErrorsDisturbNothing :
    SameButError finished { finished with errc := .seq, reply := some 0x32 } ∧
      after (runThrough [hostEvent .cmdStart] finished) ≠ none := ⟨rfl, by decide +kernel⟩

/-! ### Reset and the whole machine -/

theorem witness_StepKeepsInvariants :
    Consistent ((pendingAt 5 .all).facing [.engine]) ∧ after (step ((pendingAt 5 .all).facing [.engine])) ≠ none :=
  ⟨consistent_facing consistent_pending_last _, by decide +kernel⟩

theorem witness_NoRunStops : Consistent (pendingAt 5 .all) ∧ Reachable State.reset :=
  ⟨consistent_pending_last, [], 0, rfl⟩

theorem witness_StaleResult_last_stage :
    Consistent (pendingAt 5 .all) ∧ (after (step (pendingAt 5 .all))).map State.stage = some 6 ∧
      (pendingAt 5 .all).stage ≠ 6 := ⟨consistent_pending_last, by decide +kernel, by decide +kernel⟩

theorem witness_StaleResult_write :
    Consistent (finished.facing [hostEvent (.wrId 0 0x00)]) ∧
      (after (step (finished.facing [hostEvent (.wrId 0 0x00)]))).map State.stage = some 6 ∧ finished.stage = 6 :=
  ⟨consistent_facing consistent_finished _, by decide +kernel, by decide +kernel⟩

theorem witness_FieldsWrittenOnlyBy :
    (after (step (before (hostEvent (.wrId 0 0x00)) finished))).map State.id ≠ some finished.id ∧
      (after (step (before .engine (pendingAt 0 .all)))).map State.wb ≠ some (pendingAt 0 .all).wb ∧
      (after (step (before .engine (pendingAt 5 .all)))).map State.busy = some false ∧
      (after (step (before (hostEvent .cmdStep) finished))).map State.errc = some .seq ∧
      (after (step (before (hostEvent .cmdStart) finished))).map State.mode = some .all ∧ finished.mode = .one := by
  decide +kernel

theorem witness_IdentifierFrozenWhileActive :
    ActiveByRule (before (hostEvent (.wrId 0 0x00)) (idleAt 1)) ∧
      after (step (before (hostEvent (.wrId 0 0x00)) (idleAt 1))) ≠ none ∧
      dueReset (before (hostEvent (.wrId 0 0x00)) (idleAt 1)) = false ∧
      (before (hostEvent (.wrId 0 0x00)) (idleAt 1)).schedule = hostEvent (.wrId 0 0x00) :: [] ∧
      (before (hostEvent (.wrId 0 0x00)) (idleAt 1)).resetHeld = false :=
  ⟨by unfold ActiveByRule; decide +kernel, by decide +kernel, by decide +kernel, rfl, rfl⟩

theorem witness_IdentifierFrozenWhileActive_stored :
    ¬ ActiveByRule (before (hostEvent (.wrId 5 0xFF)) finished) ∧
      ¬ ActiveByRule (before (hostEvent (.wrId 5 0xFF)) State.reset) ∧
      (before (hostEvent (.wrId 5 0xFF)) finished).schedule = hostEvent (.wrId 5 0xFF) :: [] ∧
      (before (hostEvent (.wrId 5 0xFF)) finished).resetHeld = false :=
  ⟨by unfold ActiveByRule; decide +kernel, by unfold ActiveByRule; decide +kernel, rfl, rfl⟩

theorem witness_ResultStaysUntilRestart :
    Consistent finished ∧ exec .rdStatus finished = .next { finished with reply := some finished.status } ∧
      finished.status.getLsbD 0 = false ∧ finished.status.getLsbD 1 = true ∧
      [hostEvent (.wrId 0 0x00), .engine, hostEvent .cmdStep, .resetRelease].all keepsResult = true :=
  ⟨consistent_finished, rfl, by decide +kernel, by decide +kernel, by decide +kernel⟩

theorem witness_ResetValues :
    (before .resetAssert (pendingAt 3 .all)).schedule = .resetAssert :: [] ∧
      State.reset.id = Vector.replicate 6 0x00 ∧ State.reset.errc = .none ∧ State.reset.busy = false := by decide +kernel

theorem witness_HeldResetStopsBothAgents :
    { pendingAt 3 .all with resetHeld := true }.resetHeld = true ∧
      ∀ e ∈ [hostEvent .cmdStart, .engine, hostEvent .rdStatus], e ≠ .resetRelease ∧ e ≠ .resetAssert := by
  decide +kernel

theorem witness_StepRunsDecodedWord :
    (before (.word 0x9801) State.reset).schedule = .word 0x9801 :: [] ∧
      (before (hostEvent (.cmdRsv 0xFF)) State.reset).schedule = hostEvent (.cmdRsv 0xFF) :: [] ∧
      (Instr.cmdRsv 0xFF).wf = true ∧ State.reset.resetHeld = false ∧
      decodeTableWord 16 0xFFFF = some (.illegal 0xFFFF) := by decide +kernel

theorem witness_StepTakesTheScheduledTurn :
    ((before .engine (pendingAt 5 .all)).schedule = .engine :: [] ∧ (pendingAt 5 .all).busy = true ∧
      (pendingAt 5 .all).resetHeld = false) ∧
    ((before .engine finished).schedule = .engine :: [] ∧ finished.busy = false) ∧
    ((pendingAt 0 .one).schedule = [] ∧ (pendingAt 0 .one).busy = true) ∧ finished.schedule = [] ∧
    (before .resetAssert finished).schedule = .resetAssert :: [] ∧
    (before .resetRelease finished).schedule = .resetRelease :: [] := by decide +kernel

theorem witness_ModeUnobservable :
    finished.busy = false ∧ after (runThrough [hostEvent .cmdStep] finished) ≠ none ∧
      (after (runThrough [hostEvent .cmdStep] State.reset)).map State.busy = some true := by decide +kernel

/-- A host that polls and an engine, turn about. -/
def turnAbout (n : Nat) : Event := if n % 2 = 0 then hostEvent .rdStatus else .engine

theorem witness_PollingTerminates :
    Consistent (pendingAt 0 .all) ∧ (pendingAt 0 .all).busy = true ∧ (pendingAt 0 .all).resetHeld = false ∧
      (∀ n, turnAbout n = .engine ∨ turnAbout n = hostEvent .rdStatus) ∧ ∀ n, ∃ m, n ≤ m ∧ turnAbout m = .engine := by
  refine ⟨consistent_pending_first, by decide +kernel, by decide +kernel, fun n => ?_, fun n => ⟨2 * n + 1, by omega, ?_⟩⟩
  · unfold turnAbout
    split
    · exact .inr rfl
    · exact .inl rfl
  · unfold turnAbout
    rw [if_neg (by omega)]

theorem witness_BackToBackSteps :
    ((idleAt 4).busy = false ∧ (idleAt 4).resetHeld = false ∧ (idleAt 4).stage.toNat ≤ 4) ∧
      State.reset.stage.toNat ≤ 4 := by decide +kernel

theorem witness_OutputLevelsChangeOnlyBy :
    ((pendingAt 5 .all).doneO = false ∧ (after (step (pendingAt 5 .all))).map State.doneO = some true) ∧
      (finished.doneO = true ∧ (after (step (before (hostEvent .cmdInit) finished))).map State.doneO = some false) ∧
      (finished.errO = false ∧ (after (step (before (hostEvent .cmdStep) finished))).map State.errO = some true) ∧
      ({ finished with errc := .seq }.errO = true ∧
        (after (step (before (hostEvent .cmdClear) { finished with errc := .seq }))).map State.errO = some false) := by
  decide +kernel

theorem witness_OutputLevelsChangeOnlyBy_causes :
    (dueStage (pendingAt 5 .all) = true ∧ (after (step (pendingAt 5 .all))).map State.stage = some 6) ∧
      (dueInstr (before (hostEvent .cmdStart) (pendingAt 5 .all)) = some .cmdStart ∧
        after (step (before (hostEvent .cmdStart) (pendingAt 5 .all))) ≠ none) ∧
      (dueReset (before .resetAssert finished) = true ∧ after (step (before .resetAssert finished)) ≠ none) ∧
      (dueInstr (before (hostEvent .cmdStep) finished) = some .cmdStep ∧ Raises .cmdStep finished .seq) :=
  ⟨by decide +kernel, by decide +kernel, by decide +kernel, by decide +kernel, rfl, by decide +kernel, by decide +kernel⟩

theorem witness_OutputLevelsChangeOnlyBy_consistent :
    Consistent (before (hostEvent .cmdStart) (pendingAt 5 .all)) ∧ Consistent (before (hostEvent .cmdInit) finished) :=
  ⟨consistent_facing consistent_pending_last _, consistent_facing consistent_finished _⟩

end Sys2Proof.Tests
end

section
/-! SUPPORT. The identifier under one step (10_state.md R20, R21, R39): who may write `ID`, and the settled claim that it is frozen
while ACTIVE. -/

namespace Sys2Proof.Machine

/-- The model's `ACTIVE` is the rule's (R27). -/
theorem active_iff_activeByRule (s : State) : s.active = true ↔ ActiveByRule s := by
  simp [State.active, State.partDone, ActiveByRule, BitVec.le_def]

/-- Of the host's instructions only an accepted `WR.ID` changes the identifier. -/
theorem exec_id {i : Instr} {s t : State} (h : exec i s = .next t) :
    t.id = s.id ∨ s.active = false ∧ ∃ k d, i = .wrId k d := by
  rcases exec_cases i s with ⟨_, e⟩ | ⟨_, _, e⟩ | ⟨k, d, hi, ha, _⟩ | ⟨_, _, e⟩ | ⟨_, _, e⟩ | ⟨_, _, _, e⟩ | ⟨_, e⟩
  case inr.inr.inl => exact .inr ⟨ha, k, d, hi⟩
  all_goals
    cases e.symm.trans h
    exact .inl rfl

/-- The engine reads the identifier and never writes it. -/
theorem engineTurn_id {s t : State} (h : engineTurn s = .next t) : t.id = s.id := by
  rcases engineTurn_cases s with ⟨_, e⟩ | ⟨_, _, _, e⟩ | ⟨_, _, _, e⟩ <;> cases e.symm.trans h <;> rfl

/-- A word that overlaps asserted reset leaves the identifier. -/
theorem overlapReset_id (b : Bool) (s : State) : (overlapReset b s).id = s.id := by
  rw [overlapReset_eq]

/-- While ACTIVE no event but the assertion of reset changes the identifier. -/
theorem perform_id_of_active {e : Event} {s t : State} (ha : s.active = true) (he : e ≠ .resetAssert)
    (h : perform e s = .next t) : t.id = s.id := by
  cases e with
  | word w =>
    change hostTurn w s = .next t at h
    cases hr : s.resetHeld with
    | false =>
      rw [hostTurn_released hr] at h
      exact (exec_id h).resolve_right fun ⟨hn, _⟩ => by simp [ha] at hn
    | true =>
      cases (hostTurn_held hr w).symm.trans h
      exact overlapReset_id _ s
  | engine => exact engineTurn_id h
  | resetAssert => exact absurd rfl he
  | resetRelease =>
    cases h
    rfl

/-- While ACTIVE no step but the reset step changes the identifier. -/
theorem step_id_of_active {s t : State} (ha : s.active = true) (h : step s = .next t) (hr : dueReset s = false) :
    t.id = s.id := by
  rcases step_cases h with ⟨_, hp⟩ | ⟨e, rest, hs, hp⟩
  · exact engineTurn_id hp
  · have he : e ≠ .resetAssert := by simpa [dueReset, hs] using hr
    exact perform_id_of_active (s := s.facing rest) ha he hp

/-- The step that fetches a `WR.ID` with reset released performs it. -/
theorem step_wrId {s : State} {k : Index} {d : Byte} {rest : List Event}
    (hs : s.schedule = hostEvent (.wrId k d) :: rest) (hr : s.resetHeld = false) :
    step s = execWrId k d (s.facing rest) := by
  have hd : decode (encode (.wrId k d)) = .wrId k d := by simp [encode]
  calc step s = hostTurn (encode (.wrId k d)) (s.facing rest) := step_cons hs
    _ = exec (decode (encode (.wrId k d))) (s.facing rest) := hostTurn_released (s := s.facing rest) hr _
    _ = execWrId k d (s.facing rest) := by rw [hd]; rfl

/-- Settles O50: `exec_cases` leaves `WR.ID` as the only writer of `ID` beside reset, and it checks ACTIVE first. -/
theorem identifierFrozenWhileActive : Obligations.IdentifierFrozenWhileActive := by
  refine ⟨fun s t ha h hr => step_id_of_active ((active_iff_activeByRule s).2 ha) h hr, fun s k d rest hs hr => ?_⟩
  rw [step_wrId hs hr, ← active_iff_activeByRule]
  cases ha : s.active with
  | true => exact ⟨_, execWrId_active (s := s.facing rest) ha k d, fun _ => ⟨rfl, rfl⟩, fun hn => absurd rfl hn⟩
  | false => exact ⟨_, execWrId_idle (s := s.facing rest) ha k d, nofun, fun _ => ⟨rfl, rfl⟩⟩

end Sys2Proof.Machine
end

section
/-! SUPPORT. What `RegRead` answers, one lemma a kind of address (20_memory.md R51, R52): a byte of a register file, a register of the
last group, a reserved address. -/

namespace Sys2Proof.Machine

theorem fileRead_of_index {a : Addr} {k : Index} (h : regIndex a = some k) (file : Bytes6) : fileRead file a = file[k] := by
  simp [fileRead, h]

theorem fileRead_of_no_index {a : Addr} (h : regIndex a = none) (file : Bytes6) : fileRead file a = 0x00 := by
  simp [fileRead, h]

theorem regRead_of_idGroup {a : Addr} (h : addrGroup a = 0b00) (s : State) : regRead a s = fileRead s.id a := by
  simp [regRead, h]

theorem regRead_of_licGroup {a : Addr} (h : addrGroup a = 0b01) (s : State) : regRead a s = fileRead s.lic a := by
  simp [regRead, h]

theorem regRead_of_wbGroup {a : Addr} (h : addrGroup a = 0b10) (s : State) : regRead a s = fileRead s.wb a := by
  simp [regRead, h]

/-- The upper half of the last group holds no register. -/
theorem regRead_of_high_slot {a : Addr} (hg : addrGroup a = 0b11) (hs : 4 ≤ addrSlot a) (s : State) :
    regRead a s = 0x00 := by
  have hslot : addrSlot a = 4 ∨ addrSlot a = 5 ∨ addrSlot a = 6 ∨ addrSlot a = 7 := by bv_omega
  rcases hslot with h | h | h | h <;> simp [regRead, hg, h]

@[simp] theorem regRead_idAddr (k : Index) (s : State) : regRead (idAddr k) s = s.id[k] := by
  obtain ⟨hg, hk⟩ := idAddr_operands k
  rw [regRead_of_idGroup hg, fileRead_of_index hk]

@[simp] theorem regRead_licAddr (k : Index) (s : State) : regRead (licAddr k) s = s.lic[k] := by
  obtain ⟨hg, hk⟩ := licAddr_operands k
  rw [regRead_of_licGroup hg, fileRead_of_index hk]

@[simp] theorem regRead_wbAddr (k : Index) (s : State) : regRead (wbAddr k) s = s.wb[k] := by
  obtain ⟨hg, hk⟩ := wbAddr_operands k
  rw [regRead_of_wbGroup hg, fileRead_of_index hk]

@[simp] theorem regRead_cmdAddr (s : State) : regRead cmdAddr s = 0x00 := rfl

@[simp] theorem regRead_statusAddr (s : State) : regRead statusAddr s = s.status := rfl

@[simp] theorem regRead_polyAddr (s : State) : regRead polyAddr s = 0x07 := rfl

@[simp] theorem regRead_seedAddr (s : State) : regRead seedAddr s = 0xCD := rfl

/-- The two kinds of reserved address (R51): past the end of a register file, or past `SEED` in the last group. -/
theorem reservedAddrs_cases : ∀ a ∈ reservedAddrs,
    (addrGroup a = 0b00 ∨ addrGroup a = 0b01 ∨ addrGroup a = 0b10) ∧ regIndex a = none ∨
      addrGroup a = 0b11 ∧ 4 ≤ addrSlot a := by
  decide +kernel

theorem regRead_reserved {a : Addr} (ha : a ∈ reservedAddrs) (s : State) : regRead a s = 0x00 := by
  rcases reservedAddrs_cases a ha with ⟨hg | hg | hg, hk⟩ | ⟨hg, hs⟩
  · rw [regRead_of_idGroup hg, fileRead_of_no_index hk]
  · rw [regRead_of_licGroup hg, fileRead_of_no_index hk]
  · rw [regRead_of_wbGroup hg, fileRead_of_no_index hk]
  · exact regRead_of_high_slot hg hs s

/-- Settles O7: the statement's addresses are the map's (R51), and each kind of address has its reading lemma. -/
theorem regReadByAddress : Obligations.RegReadByAddress := by
  intro s
  refine ⟨fun k => ⟨regRead_idAddr k s, ?_, ?_⟩, regRead_cmdAddr s, regRead_statusAddr s, regRead_polyAddr s,
    regRead_seedAddr s, fun a ha => regRead_reserved ha s⟩
  · rw [BitVec.ofNat_add]
    exact regRead_licAddr k s
  · rw [BitVec.ofNat_add]
    exact regRead_wbAddr k s

end Sys2Proof.Machine
end

section
/-! SUPPORT. The bus word as a number (30_encoding.md R70): `W`, `A` and `D` at their weights, and so the words of each
range of R77. -/

namespace Sys2Proof.Machine

/-- A legal word as the row of its fields (R70). -/
theorem busWord_eq_append (b : Bool) (a : Addr) (d : Byte) :
    busWord b 0b00 a d = BitVec.ofBool b ++ 0b00#2 ++ a ++ d := by
  apply BitVec.eq_of_getLsbD_eq
  intro i hi
  rw [busWord_getLsbD]
  simp only [BitVec.getLsbD_append]
  grind

/-- A legal word's value is the sum of its fields at their weights: they do not overlap. -/
theorem busWord_toNat (b : Bool) (a : Addr) (d : Byte) :
    (busWord b 0b00 a d).toNat = 0x8000 * b.toNat + 0x100 * a.toNat + d.toNat := by
  have hd := d.isLt
  have ha := a.isLt
  rw [busWord_eq_append, BitVec.toNat_append, ← Nat.shiftLeft_add_eq_or_of_lt hd, BitVec.toNat_append,
    ← Nat.shiftLeft_add_eq_or_of_lt ha]
  cases b <;> simp [Nat.shiftLeft_eq] <;> omega

/-- A word of the map's ranges is the word of its fields, when the range's base and place make the write bit and the address. -/
theorem wordAt_eq_busWord {base k : Nat} {b : Bool} {a : Addr}
    (h : base + 0x100 * k = 0x8000 * b.toNat + 0x100 * a.toNat) (d : Byte) :
    wordAt base k d = busWord b 0b00 a d := by
  apply BitVec.eq_of_toNat_eq
  have hlt := (busWord b 0b00 a d).isLt
  rw [busWord_toNat] at hlt ⊢
  rw [wordAt, BitVec.toNat_ofNat, h, Nat.mod_eq_of_lt hlt]

theorem decode_wordAt_read {base k : Nat} {a : Addr} (h : base + 0x100 * k = 0x100 * a.toNat) (d : Byte) :
    decode (wordAt base k d) = decodeRead a := by
  rw [wordAt_eq_busWord (b := false) (a := a) (by simpa using h)]
  exact decode_busWord false a d

theorem decode_wordAt_write {base k : Nat} {a : Addr} (h : base + 0x100 * k = 0x8000 + 0x100 * a.toNat) (d : Byte) :
    decode (wordAt base k d) = decodeWrite a d := by
  rw [wordAt_eq_busWord (b := true) (a := a) h]
  exact decode_busWord true a d

/-- The read word of an address is its number times the weight of `A`. -/
theorem readWord_eq_ofNat (a : Addr) : readWord a = BitVec.ofNat 16 (0x100 * a.toNat) := by
  apply BitVec.eq_of_toNat_eq
  have ha := a.isLt
  rw [readWord, busWord_toNat, BitVec.toNat_ofNat, Nat.mod_eq_of_lt (by omega)]
  simp

theorem idAddr_toNat (k : Index) : (idAddr k).toNat = k.val := by
  revert k; decide +kernel

theorem licAddr_toNat (k : Index) : (licAddr k).toNat = 0x08 + k.val := by
  revert k; decide +kernel

theorem wbAddr_toNat (k : Index) : (wbAddr k).toNat = 0x10 + k.val := by
  revert k; decide +kernel

end Sys2Proof.Machine
end

section
/-! SUPPORT. The opcode map (30_encoding.md R74, R77): what the decoder answers at the reserved addresses and for the reserved
command codes, and the settled claim that lists the map by ranges of words. -/

namespace Sys2Proof.Machine

theorem decodeRead_reserved : ∀ a ∈ reservedAddrs, decodeRead a = .rdRsv a := by
  decide +kernel

theorem decodeWrite_reserved {a : Addr} (ha : a ∈ reservedAddrs) (d : Byte) : decodeWrite a d = .wrRsv a d := by
  fin_cases ha <;> rfl

/-- Every command code past the five named ones is reserved (R74). -/
theorem decodeCommand_reserved {d : Byte} (hd : 0x05 ≤ d.toNat) : decodeCommand d = .cmdRsv d := by
  unfold decodeCommand
  split
  case h_6 => rfl
  all_goals exact absurd hd (by decide)

/-- Settles O3: each range's base and place are a write bit and an address, so the decoder's answer at that address is the
range's instruction. -/
theorem opcodeMapByRanges : Obligations.OpcodeMapByRanges := by
  refine ⟨fun k d => ⟨?_, ?_, ?_, ?_, ?_, ?_⟩, fun d => ⟨?_, ?_, ?_, ?_, ?_, ?_, ?_⟩, fun a ha d => ⟨?_, ?_⟩,
    ⟨by decide, by decide, by decide, by decide, by decide, fun d hd => ?_⟩, fun w hw => decode_of_rsv hw, by decide +kernel⟩
  · rw [decode_wordAt_read (a := idAddr k) (by rw [idAddr_toNat]; omega), decodeRead_idAddr]
  · rw [decode_wordAt_read (a := licAddr k) (by rw [licAddr_toNat]; omega), decodeRead_licAddr]
  · rw [decode_wordAt_read (a := wbAddr k) (by rw [wbAddr_toNat]; omega), decodeRead_wbAddr]
  · rw [decode_wordAt_write (a := idAddr k) (by rw [idAddr_toNat]), decodeWrite_idAddr]
  · rw [decode_wordAt_write (a := licAddr k) (by rw [licAddr_toNat]; omega), decodeWrite_licAddr]
  · rw [decode_wordAt_write (a := wbAddr k) (by rw [wbAddr_toNat]; omega), decodeWrite_wbAddr]
  · exact decode_wordAt_read (a := cmdAddr) rfl d
  · exact decode_wordAt_read (a := statusAddr) rfl d
  · exact decode_wordAt_read (a := polyAddr) rfl d
  · exact decode_wordAt_read (a := seedAddr) rfl d
  · exact decode_wordAt_write (a := statusAddr) rfl d
  · exact decode_wordAt_write (a := polyAddr) rfl d
  · exact decode_wordAt_write (a := seedAddr) rfl d
  · rw [decode_wordAt_read (Nat.zero_add _), decodeRead_reserved a ha]
  · rw [decode_wordAt_write rfl, decodeWrite_reserved ha]
  · rw [decode_wordAt_write (a := cmdAddr) (by decide), decodeWrite_cmdAddr, decodeCommand_reserved hd]

end Sys2Proof.Machine
end

section
/-! SUPPORT. A read (30_encoding.md R71): the decoder with one meaning a mnemonic and `RegRead` (20_memory.md R52) agree at every
address, and the settled claim about read words. -/

namespace Sys2Proof.Machine

/-- Every address is a register's or a reserved one (R51). -/
theorem addr_cases : ∀ a : Addr,
    (∃ k, a = idAddr k) ∨ (∃ k, a = licAddr k) ∨ (∃ k, a = wbAddr k) ∨
      a = cmdAddr ∨ a = statusAddr ∨ a = polyAddr ∨ a = seedAddr ∨ a ∈ reservedAddrs := by
  decide +kernel

/-- The instruction of a read hands back `RegRead` of its address and does nothing else. -/
theorem exec_decodeRead (a : Addr) (s : State) : exec (decodeRead a) s = .next (giveBack (regRead a s) s) := by
  rcases addr_cases a with ⟨k, rfl⟩ | ⟨k, rfl⟩ | ⟨k, rfl⟩ | rfl | rfl | rfl | rfl | ha
  · rw [decodeRead_idAddr, regRead_idAddr]; rfl
  · rw [decodeRead_licAddr, regRead_licAddr]; rfl
  · rw [decodeRead_wbAddr, regRead_wbAddr]; rfl
  · rfl
  · rfl
  · rfl
  · rfl
  · rw [decodeRead_reserved a ha, regRead_reserved ha]; rfl

/-- Settles O6: a read word decodes by its address alone, and `exec_decodeRead` gives that instruction's effect. -/
theorem readWordHandsBackRegister : Obligations.ReadWordHandsBackRegister := by
  intro a d s
  have hdec : decode (busWord false 0b00 a d) = decodeRead a := decode_busWord false a d
  refine ⟨?_, ?_, readWord_eq_ofNat a, fun r => dataField_busWord false 0b00 r.addr 0x00⟩
  · rw [hdec]
    exact exec_decodeRead a s
  · rw [hdec, ← readWord_eq_ofNat, decode_readWord]

end Sys2Proof.Machine
end

section
/-! SUPPORT. The checksum datapath (40_checksum.md R101-R103): the bit step as one XOR, the byte step at equal operands, the
checksum as a fold from `SEED`, and the settled claims about the three. -/

namespace Sys2Proof.Machine

/-! ## The bit step (R101) -/

/-- What the bit step XORs in: `POLY` when bit 7 moves out, otherwise nothing. -/
theorem bitstep_eq_xor (c : Byte) : bitstep c = (c <<< 1) ^^^ (if c.getLsbD 7 then 0x07#8 else 0x00#8) := by
  unfold bitstep
  split
  · rfl
  · exact BitVec.xor_zero.symm

theorem bitstep_zero : bitstep 0x00 = 0x00 := by decide

/-- The mask of R101's pseudocode: shifting in 9 bits and dropping the ninth is shifting in 8. -/
theorem setWidth_shiftLeft_xor_and_mask (c : Byte) (m : BitVec 9) :
    (((c.setWidth 9 <<< 1) ^^^ m) &&& 0xFF#9).setWidth 8 = (c <<< 1) ^^^ m.setWidth 8 := by
  have hshift : (c.setWidth 9 <<< 1).setWidth 8 = c <<< 1 := by
    rw [BitVec.setWidth_shiftLeft_of_le (by decide), BitVec.setWidth_setWidth_of_le _ (by decide), BitVec.setWidth_eq]
  rw [BitVec.setWidth_and, BitVec.setWidth_xor, hshift]
  exact BitVec.and_allOnes

/-- `c << 1` in 8 bits is `{c[6:0], 0}`. -/
theorem shiftLeft_one_eq_append (c : Byte) : c <<< 1 = c.extractLsb' 0 7 ++ 0#1 :=
  BitVec.shiftLeft_eq_concat_of_lt (by decide)

/-- Settles O11: both forms are `bitstep_eq_xor` with the shift written another way. -/
theorem bitStepShiftsAndFolds : Obligations.BitStepShiftsAndFolds := by
  refine ⟨fun c => ⟨?_, ?_⟩, bitstep_zero, by decide, by decide, by decide, by decide, by decide⟩
  · rw [setWidth_shiftLeft_xor_and_mask, bitstep_eq_xor, apply_ite (BitVec.setWidth 8)]
    rfl
  · rw [bitstep_eq_xor, shiftLeft_one_eq_append]

/-! ## The byte step (R102) -/

/-- `bitstep(0) = 0`, so eight bit steps leave the 0 that `c ^ c` is. -/
theorem bytestep_self (c : Byte) : bytestep c c = 0x00 := by
  rw [bytestep, BitVec.xor_self]
  exact Function.iterate_fixed bitstep_zero 8

/-- Settles O12: the eight bit steps by unfolding the iterate, equal operands by `bytestep_self`. -/
theorem byteStepIsEightBitSteps : Obligations.ByteStepIsEightBitSteps :=
  ⟨fun c b => ⟨rfl, bytestep_self c⟩, by decide, by decide, by decide, by decide, by decide⟩

/-! ## The checksum (R103) -/

@[simp] theorem crcFrom_nil (start : Byte) : crcFrom start [] = start := rfl

@[simp] theorem crcFrom_cons (start b : Byte) (bytes : List Byte) :
    crcFrom start (b :: bytes) = crcFrom (bytestep start b) bytes := rfl

theorem crc8_eq_crcFrom_seed (buf : Bytes6) : crc8 buf = crcFrom 0xCD buf.toList := rfl

/-- Settles O13: the fold from `SEED` one byte at a time. -/
theorem checksumFoldsSixBytes : Obligations.ChecksumFoldsSixBytes := by
  refine ⟨fun b0 b1 b2 b3 b4 b5 => ?_, ?_, ?_, ?_, ?_, ?_⟩
  · simp [crc8_eq_crcFrom_seed]
  all_goals decide +kernel

end Sys2Proof.Machine
end

section
/-! SUPPORT. The register files over the bus (42_bus_access.md R140, R141, R143, R145): what an accepted and a refused `WR.ID` leave
in `ID`, and the settled claims about `ID` and about the ignored writes to `LIC` and `WB`. -/

namespace Sys2Proof.Machine

/-! ## `ID` (R140, R141) -/

/-- What a read of `ID[k]` finds after a `WR.ID k`: the byte written, or the old one when the write was refused. -/
theorem exec_wrId_idByte (k : Index) (v : Byte) (s : State) :
    ∃ t, exec (.wrId k v) s = .next t ∧ t.idByte k = if s.active = true then s.id[k] else v := by
  cases ha : s.active with
  | true => exact ⟨_, execWrId_active ha k v, rfl⟩
  | false => exact ⟨_, execWrId_idle ha k v, Vector.getElem_set_self k.isLt⟩

/-- Settles O27: a read hands back `ID[k]`, and `exec_wrId_idByte` says what a write before it left there. -/
theorem readIdentifier : Obligations.ReadIdentifier := by
  intro k d s
  obtain ⟨hfile, -⟩ := opcodeMapByRanges
  have hreset : State.reset.idByte k = 0x00 := Vector.getElem_replicate k.isLt
  refine ⟨(hfile k d).1, rfl, ?_, fun v => ?_⟩
  · rw [← hreset]
    rfl
  · obtain ⟨t, hwrite, hbyte⟩ := exec_wrId_idByte k v s
    exact ⟨t, hwrite, by rw [← hbyte]; rfl⟩

/-- Writing the same byte twice is writing it once. -/
theorem writeId_writeId (k : Index) (d : Byte) (s : State) : writeId k d (writeId k d s) = writeId k d s := by
  simp [writeId]

/-- Settles O28: the model's ACTIVE is the rule's, and a stored byte changes nothing ACTIVE looks at, so the second write is
accepted too and stores what is there. -/
theorem writeIdentifier : Obligations.WriteIdentifier := by
  intro k d s
  obtain ⟨hfile, -⟩ := opcodeMapByRanges
  obtain ⟨-, -, -, hdecode, -⟩ := hfile k d
  refine ⟨hdecode, fun hactive => ?_, fun hidle => ?_⟩
  · exact execWrId_active ((active_iff_activeByRule s).2 hactive) k d
  · have ha : s.active = false := Bool.eq_false_iff.2 (mt (active_iff_activeByRule s).1 hidle)
    refine ⟨execWrId_idle ha k d, ?_⟩
    calc exec (.wrId k d) (giveNothing (writeId k d s))
        = .next (giveNothing (writeId k d (giveNothing (writeId k d s)))) :=
          execWrId_idle (s := giveNothing (writeId k d s)) ha k d
      _ = .next (giveNothing (writeId k d (writeId k d s))) := rfl
      _ = .next (giveNothing (writeId k d s)) := by rw [writeId_writeId]

/-! ## Ignored writes to `LIC` and `WB` (R143, R145) -/

/-- Settles O30: the meaning of both writes is `giveNothing`, which changes the reply alone. -/
theorem fileWritesIgnored : Obligations.FileWritesIgnored := by
  intro k d s
  obtain ⟨hfile, -⟩ := opcodeMapByRanges
  obtain ⟨-, -, -, -, hlic, hwb⟩ := hfile k d
  exact ⟨hlic, rfl, hwb, rfl⟩

end Sys2Proof.Machine
end

section
/-! SUPPORT. `STATUS` (10_state.md R32, 42_bus_access.md R147): the byte as the row of its fields, its values in the corner cases,
and the settled claim about `RD.STATUS`. -/

namespace Sys2Proof.Machine

/-- `STATUS = {ERRC[1:0], STAGE[2:0], ERR, DONE, BUSY}` as R32 writes it: the fields side by side. -/
theorem status_eq_append (s : State) :
    s.status = s.errc.bits ++ s.stage ++ BitVec.ofBool s.err ++ BitVec.ofBool s.done ++ BitVec.ofBool s.busy := by
  apply BitVec.eq_of_getLsbD_eq
  intro i hi
  simp only [State.status, BitVec.getLsbD_append, BitVec.getLsbD_or, BitVec.getLsbD_shiftLeft, BitVec.getLsbD_setWidth]
  grind

theorem err_eq_decide (s : State) : s.err = decide (s.errc ≠ .none) := decide_not.symm

theorem err_of_errc_ne {s : State} (h : s.errc ≠ .none) : s.err = true := by
  simp [err_eq_decide, h]

theorem err_of_errc_eq {s : State} (h : s.errc = .none) : s.err = false := by
  simp [err_eq_decide, h]

/-! ## The fields of the byte -/

theorem status_busy (s : State) : s.status.getLsbD 0 = s.busy := by
  rw [status_eq_append]
  simp only [BitVec.getLsbD_append]
  simp

theorem status_done (s : State) : s.status.getLsbD 1 = s.done := by
  rw [status_eq_append]
  simp only [BitVec.getLsbD_append]
  simp

theorem status_err (s : State) : s.status.getLsbD 2 = s.err := by
  rw [status_eq_append]
  simp only [BitVec.getLsbD_append]
  simp

theorem status_stage (s : State) : s.status.extractLsb' 3 3 = s.stage := by
  rw [status_eq_append, BitVec.extractLsb'_append_eq_of_le (by decide), BitVec.extractLsb'_append_eq_of_le (by decide),
    BitVec.extractLsb'_append_eq_of_le (by decide)]
  exact BitVec.extractLsb'_append_eq_right

theorem status_errc (s : State) : s.status.extractLsb' 6 2 = s.errc.bits := by
  rw [status_eq_append, BitVec.extractLsb'_append_eq_of_le (by decide), BitVec.extractLsb'_append_eq_of_le (by decide),
    BitVec.extractLsb'_append_eq_of_le (by decide)]
  exact BitVec.extractLsb'_append_eq_left

/-! ## The corner values -/

/-- With a recorded error the byte is the error's code and `ERR`, over the byte without the error. -/
theorem status_of_errc_ne {s : State} (h : s.errc ≠ .none) :
    s.status = (s.errc.bits.setWidth 8 <<< 6 ||| 0x04#8) ||| { s with errc := .none }.status := by
  have hcode : ErrCode.none.bits.setWidth 8 <<< 6 = 0#8 := rfl
  have herr : (BitVec.ofBool true).setWidth 8 <<< 2 = 0x04#8 := rfl
  have hnone : (BitVec.ofBool false).setWidth 8 <<< 2 = 0#8 := rfl
  rw [State.status, err_of_errc_ne h, State.status, err_of_errc_eq (s := { s with errc := .none }) rfl, hcode, herr, hnone,
    BitVec.zero_or, BitVec.or_zero]
  ac_rfl

/-- While a derivation with no error runs, the byte is `0x01 | (STAGE << 3)`. -/
theorem status_of_running {s : State} (hb : s.busy = true) (hd : s.done = false) (he : s.errc = .none) :
    s.status = 0x01 ||| BitVec.ofNat 8 (s.stage.toNat * 8) := by
  have hplace : ∀ stage : BitVec 3, stage.setWidth 8 <<< 3 ||| 0x01#8 = 0x01 ||| BitVec.ofNat 8 (stage.toNat * 8) := by
    decide
  rw [← hplace, State.status, err_of_errc_eq he, he, hd, hb]
  simp [ErrCode.bits]

/-- At the end of a derivation with no error the byte is 0x32. -/
theorem status_of_finished {s : State} (h6 : s.stage = 6) (hd : s.done = true) (hb : s.busy = false) (he : s.errc = .none) :
    s.status = 0x32 := by
  rw [State.status, err_of_errc_eq he, h6, hd, hb, he]
  rfl

/-- Settles O31: the fields by `status_eq_append`, the three error values by `status_of_errc_ne`, and no 7 in bits 5 to 3
because `Consistent` bounds `STAGE`. -/
theorem readStatus : Obligations.ReadStatus := by
  intro d s
  obtain ⟨-, hcontrol, -⟩ := opcodeMapByRanges
  obtain ⟨-, hdecode, -⟩ := hcontrol d
  refine ⟨hdecode, rfl,
    ⟨status_busy s, status_done s, (status_err s).trans (err_eq_decide s), status_stage s, status_errc s⟩, rfl,
    status_of_finished, status_of_running, fun h => ?_, fun h => ?_, fun h => ?_, fun hc h7 => ?_⟩
  · rw [status_of_errc_ne (by simp [h]), h]
    rfl
  · rw [status_of_errc_ne (by simp [h]), h]
    rfl
  · rw [status_of_errc_ne (by simp [h]), h]
    rfl
  · have hrange := hc.stage_range
    rw [← status_stage s, h7] at hrange
    exact absurd hrange (by decide)

end Sys2Proof.Machine
end

section
/-! SUPPORT. The constants, the ignored control writes, the reserved addresses and the illegal words (42_bus_access.md R146, R148 to
R155): the words by the opcode map (R77), the effects by the instructions' meanings. -/

namespace Sys2Proof.Machine

/-- Settles O32: each of the three reads is `giveBack` of its constant. -/
theorem readConstants : Obligations.ReadConstants := by
  intro d s
  obtain ⟨-, hcontrol, -⟩ := opcodeMapByRanges
  obtain ⟨hcmd, -, hpoly, hseed, -⟩ := hcontrol d
  exact ⟨hcmd, rfl, hpoly, rfl, hseed, rfl⟩

/-- Settles O33: each of the three writes is `giveNothing`, so `ERRC` stays with every other field. -/
theorem controlWritesIgnored : Obligations.ControlWritesIgnored := by
  intro d s
  obtain ⟨-, hcontrol, -⟩ := opcodeMapByRanges
  obtain ⟨-, -, -, -, hstatus, hpoly, hseed⟩ := hcontrol d
  exact ⟨hstatus, rfl, hpoly, rfl, hseed, rfl⟩

/-- Settles O34: at a reserved address the map has `RD.RSV` and `WR.RSV`, a `giveBack` of 0x00 and a `giveNothing`. -/
theorem reservedAddressesInert : Obligations.ReservedAddressesInert := by
  intro a ha d s
  obtain ⟨-, -, hreserved, -⟩ := opcodeMapByRanges
  obtain ⟨hread, hwrite⟩ := hreserved a ha d
  exact ⟨hread, rfl, hwrite, rfl⟩

/-- What an illegal word does: it records the first error, and hands back 0x00 when it is read-shaped (R79, R153). -/
theorem execIllegal_eq (w : BusWord) (s : State) :
    execIllegal w s = .next { raiseError .illegal s with reply := if writeBit w = true then none else some 0x00 } := by
  cases hw : writeBit w with
  | true => rw [execIllegal, if_pos hw]; rfl
  | false => rw [execIllegal, hw]; rfl

/-- Settles O35: set reserved bits decode to `ILLEGAL` before any other field is looked at, and `execIllegal_eq` is its effect. -/
theorem illegalWords : Obligations.IllegalWords :=
  fun w s hw => ⟨decode_of_rsv hw, execIllegal_eq w s⟩

end Sys2Proof.Machine
end

section
/-! SUPPORT. The commands (43_commands.md R170, R172, R174, R175): the state in which nothing has been derived yet, who may clear a
recorded error, and the settled claims about `CMD.NOP`, `CMD.INIT`, `CMD.CLEAR` and the reserved codes. -/

namespace Sys2Proof.Machine

/-- Settles O36: `CMD.NOP` is a `giveNothing`, which changes the reply alone. -/
theorem commandNop : Obligations.CommandNop := by
  obtain ⟨-, -, -, ⟨hdecode, -⟩, -⟩ := opcodeMapByRanges
  exact ⟨hdecode, fun _ => rfl⟩

/-- Settles O41: past the named codes the map has `CMD.RSV`, whose meaning records the first error with no look at `BUSY`. -/
theorem commandReserved : Obligations.CommandReserved := by
  obtain ⟨-, -, -, ⟨-, -, -, -, -, hreserved⟩, -⟩ := opcodeMapByRanges
  exact fun d s hd => ⟨hreserved d hd, rfl⟩

/-! ## Beginning a derivation (R172) -/

/-- An engine that is not busy and has run no stage is not ACTIVE (R27). -/
theorem active_of_idle_at_zero {s : State} (hb : s.busy = false) (h0 : s.stage = 0) : s.active = false := by
  simp [State.active, State.partDone, hb, h0]

/-- Beginning a derivation twice is beginning it once: it writes constants. -/
theorem freshDerivation_freshDerivation (s : State) : freshDerivation (freshDerivation s) = freshDerivation s := rfl

/-- Settles O38: after an accepted `CMD.INIT` the engine is idle at stage 0, so a second one is accepted too and writes the same
constants, and ACTIVE does not refuse a `WR.ID`. -/
theorem commandInit : Obligations.CommandInit := by
  obtain ⟨-, -, -, ⟨-, -, hdecode, -⟩, -⟩ := opcodeMapByRanges
  refine ⟨hdecode, fun s hb => execCmdInit_busy hb, fun s hb => ?_⟩
  have hbusy : (giveNothing (freshDerivation s)).busy = false := hb
  have hactive : (giveNothing (freshDerivation s)).active = false := active_of_idle_at_zero hbusy rfl
  refine ⟨giveNothing (freshDerivation s), execCmdInit_idle hb, rfl, ?_, fun k d => execWrId_idle hactive k d⟩
  calc exec .cmdInit (giveNothing (freshDerivation s))
      = .next (giveNothing (freshDerivation (giveNothing (freshDerivation s)))) := execCmdInit_idle hbusy
    _ = .next (giveNothing (freshDerivation (freshDerivation s))) := rfl
    _ = .next (giveNothing (freshDerivation s)) := by rw [freshDerivation_freshDerivation]

/-! ## Clearing (R174, R205) -/

/-- At stage 0, idle and with no error, the byte is 0x00. -/
theorem status_of_idle_at_zero {s : State} (h0 : s.stage = 0) (hd : s.done = false) (hb : s.busy = false)
    (he : s.errc = .none) : s.status = 0x00 := by
  rw [State.status, err_of_errc_eq he, h0, hd, hb, he]
  rfl

/-- A recorded error wins over every later one (R202). -/
theorem firstError_of_recorded {old : ErrCode} (h : old ≠ .none) (code : ErrCode) : firstError old code = old :=
  if_neg h

/-- A recorded error stays through every instruction but `CMD.CLEAR` (R205). -/
theorem exec_errc_of_recorded {i : Instr} {s t : State} (hi : i ≠ .cmdClear) (hs : s.errc ≠ .none)
    (h : exec i s = .next t) : t.errc = s.errc := by
  rcases exec_cases i s with ⟨_, e⟩ | ⟨c, _, e⟩ | ⟨_, _, _, _, e⟩ | ⟨_, _, e⟩ | ⟨_, _, e⟩ | ⟨_, _, _, e⟩ | ⟨hclear, _⟩
  case inr.inl =>
    cases e.symm.trans h
    exact firstError_of_recorded hs c
  case inr.inr.inr.inr.inr.inr => exact absurd hclear hi
  all_goals
    cases e.symm.trans h
    rfl

/-- Settles O40: `CMD.CLEAR` checks nothing and leaves `BUSY` at 0, so the engine's turn finds no stage to take;
`exec_errc_of_recorded` is the last clause. -/
theorem commandClear : Obligations.CommandClear := by
  obtain ⟨-, -, -, ⟨-, -, -, -, hdecode, -⟩, -⟩ := opcodeMapByRanges
  refine ⟨hdecode, fun s => ?_, fun i s t hi hs h => exec_errc_of_recorded hi hs h⟩
  exact ⟨giveNothing (withdrawAndForgive (freshDerivation s)), rfl, rfl, status_of_idle_at_zero rfl rfl rfl rfl,
    engineTurn_idle rfl⟩

end Sys2Proof.Machine
end

section
/-! SUPPORT. Errors (60_exceptions.md R201, R202): what an instruction that raises one does, that every other instruction leaves `ERRC`
or clears it, and the settled claim made of the two. -/

namespace Sys2Proof.Machine

/-- What an instruction that raises an error hands back: 0x00 for a read-shaped illegal word, nothing for the rest, which are
writes (R72, R79). -/
def errorReply : Instr → Option Byte
  | .illegal w => if writeBit w = true then none else some 0x00
  | _ => none

/-- Raising an error is all that the instruction does (R202). -/
theorem exec_of_raises {i : Instr} {s : State} {c : ErrCode} (h : Raises i s c) :
    exec i s = .next { raiseError c s with reply := errorReply i } := by
  cases c with
  | none => exact h.elim
  | illegal =>
    rcases h with ⟨w, rfl⟩ | ⟨d, rfl⟩
    · exact execIllegal_eq w s
    · rfl
  | busy =>
    rcases h with ⟨rfl | rfl | rfl, hb⟩ | ⟨⟨k, d, rfl⟩, ha⟩
    · exact execCmdStart_busy hb
    · exact execCmdInit_busy hb
    · exact execCmdStep_busy hb
    · exact execWrId_active ((active_iff_activeByRule s).2 ha) k d
  | seq =>
    obtain ⟨rfl, hb, h6⟩ := h
    exact execCmdStep_finished hb h6

/-- R201's table leaves nothing out: an instruction either raises an error by it, or completes with `ERRC` as it was, or 0 after
`CMD.CLEAR`. -/
theorem raises_or_exec_errc (i : Instr) (s : State) :
    (∃ c, Raises i s c) ∨ ∃ t, exec i s = .next t ∧ t.errc = if i = .cmdClear then .none else s.errc := by
  cases i with
  | wrId k d =>
    cases ha : s.active with
    | true => exact .inl ⟨.busy, .inr ⟨⟨k, d, rfl⟩, (active_iff_activeByRule s).1 ha⟩⟩
    | false => exact .inr ⟨_, execWrId_idle ha k d, rfl⟩
  | cmdStart =>
    cases hb : s.busy with
    | true => exact .inl ⟨.busy, .inl ⟨.inl rfl, hb⟩⟩
    | false => exact .inr ⟨_, execCmdStart_idle hb, rfl⟩
  | cmdInit =>
    cases hb : s.busy with
    | true => exact .inl ⟨.busy, .inl ⟨.inr (.inl rfl), hb⟩⟩
    | false => exact .inr ⟨_, execCmdInit_idle hb, rfl⟩
  | cmdStep =>
    cases hb : s.busy with
    | true => exact .inl ⟨.busy, .inl ⟨.inr (.inr rfl), hb⟩⟩
    | false =>
      by_cases h6 : s.stage = 6
      · exact .inl ⟨.seq, rfl, hb, h6⟩
      · exact .inr ⟨_, execCmdStep_idle hb h6, rfl⟩
  | cmdRsv d => exact .inl ⟨.illegal, .inr ⟨d, rfl⟩⟩
  | illegal w => exact .inl ⟨.illegal, .inl ⟨w, rfl⟩⟩
  | _ => exact .inr ⟨_, rfl, rfl⟩

/-- Settles O42: `exec_of_raises` with the reply's match written out, and `raises_or_exec_errc` with its first case excluded. -/
theorem errorCausesAndRecording : Obligations.ErrorCausesAndRecording :=
  fun i s => ⟨fun _ h => exec_of_raises h, fun hnone => (raises_or_exec_errc i s).resolve_left fun ⟨c, h⟩ => hnone c h⟩

end Sys2Proof.Machine
end

section
/-! SUPPORT. Decoder and encoder (30_encoding.md R70, R71, R76): the kinds of word, the word of each decoded instruction, and the
settled claims that each undoes the other, that they agree with the register address map, and that the disassembler does too. -/

namespace Sys2Proof.Machine

/-! ## The kinds of word -/

/-- Every word has reserved bits set, or reads an address, or writes one. -/
theorem word_cases (w : BusWord) :
    rsvField w ≠ 0b00 ∨ (∃ a d, w = busWord false 0b00 a d) ∨ ∃ a d, w = writeWord a d := by
  by_cases hr : rsvField w = 0b00
  · have hw := busWord_fields w
    rw [hr] at hw
    cases hb : writeBit w <;> rw [hb] at hw
    · exact .inr (.inl ⟨_, _, hw.symm⟩)
    · exact .inr (.inr ⟨_, _, hw.symm⟩)
  · exact .inl hr

theorem decode_read (a : Addr) (d : Byte) : decode (busWord false 0b00 a d) = decodeRead a := decode_busWord false a d

theorem canonicalWord_of_rsv {w : BusWord} (h : rsvField w ≠ 0b00) : canonicalWord w = w := if_neg fun hc => h hc.2

theorem canonicalWord_writeWord (a : Addr) (d : Byte) : canonicalWord (writeWord a d) = writeWord a d := by
  simp [canonicalWord, writeWord]

/-- The mask of the high byte drops the data. -/
theorem busWord_and_highByte (b : Bool) (r : BitVec 2) (a : Addr) (d : Byte) :
    busWord b r a d &&& 0xFF00 = busWord b r a 0x00 := by
  apply BitVec.eq_of_getLsbD_eq
  intro i hi
  have hmask : (0xFF00 : BusWord).getLsbD i = decide (8 ≤ i) := by
    revert i; decide
  rw [BitVec.getLsbD_and, hmask, busWord_getLsbD, busWord_getLsbD]
  grind

/-- A read word's canonical form has the same address and no data (R71). -/
theorem canonicalWord_read (a : Addr) (d : Byte) : canonicalWord (busWord false 0b00 a d) = readWord a := by
  rw [canonicalWord, if_pos ⟨writeBit_busWord .., rsvField_busWord ..⟩]
  exact busWord_and_highByte false 0b00 a d

/-! ## Commands (R74) -/

/-- The command codes: five have names, the rest is reserved. -/
theorem command_cases (d : Byte) :
    (d = 0x00 ∧ decodeCommand d = .cmdNop) ∨ (d = 0x01 ∧ decodeCommand d = .cmdStart) ∨
    (d = 0x02 ∧ decodeCommand d = .cmdInit) ∨ (d = 0x03 ∧ decodeCommand d = .cmdStep) ∨
    (d = 0x04 ∧ decodeCommand d = .cmdClear) ∨ (0x05 ≤ d.toNat ∧ decodeCommand d = .cmdRsv d) := by
  have hd : d = 0x00 ∨ d = 0x01 ∨ d = 0x02 ∨ d = 0x03 ∨ d = 0x04 ∨ 0x05 ≤ d.toNat := by bv_omega
  rcases hd with rfl | rfl | rfl | rfl | rfl | hd
  case inr.inr.inr.inr.inr => simp [hd, decodeCommand_reserved hd]
  all_goals simp [decodeCommand]

theorem encode_decodeCommand (d : Byte) : encode (decodeCommand d) = writeWord cmdAddr d := by
  rcases command_cases d with ⟨rfl, h⟩ | ⟨rfl, h⟩ | ⟨rfl, h⟩ | ⟨rfl, h⟩ | ⟨rfl, h⟩ | ⟨-, h⟩ <;> rw [h] <;> rfl

theorem decodeCommand_wf (d : Byte) : (decodeCommand d).wf = true := by
  rcases command_cases d with ⟨-, h⟩ | ⟨-, h⟩ | ⟨-, h⟩ | ⟨-, h⟩ | ⟨-, h⟩ | ⟨hd, h⟩ <;> rw [h]
  case inr.inr.inr.inr.inr => exact decide_eq_true (BitVec.le_def.2 hd)
  all_goals rfl

/-! ## The word of a decoded instruction -/

theorem encode_decodeRead (a : Addr) : encode (decodeRead a) = readWord a := by
  rcases addr_cases a with ⟨k, rfl⟩ | ⟨k, rfl⟩ | ⟨k, rfl⟩ | rfl | rfl | rfl | rfl | ha
  · rw [decodeRead_idAddr]; rfl
  · rw [decodeRead_licAddr]; rfl
  · rw [decodeRead_wbAddr]; rfl
  · rfl
  · rfl
  · rfl
  · rfl
  · rw [decodeRead_reserved a ha]; rfl

theorem decodeRead_wf : ∀ a : Addr, (decodeRead a).wf = true := by decide +kernel

theorem encode_decodeWrite (a : Addr) (d : Byte) : encode (decodeWrite a d) = writeWord a d := by
  rcases addr_cases a with ⟨k, rfl⟩ | ⟨k, rfl⟩ | ⟨k, rfl⟩ | rfl | rfl | rfl | rfl | ha
  · rw [decodeWrite_idAddr]; rfl
  · rw [decodeWrite_licAddr]; rfl
  · rw [decodeWrite_wbAddr]; rfl
  · exact encode_decodeCommand d
  · rfl
  · rfl
  · rfl
  · rw [decodeWrite_reserved ha]; rfl

theorem decodeWrite_wf (a : Addr) (d : Byte) : (decodeWrite a d).wf = true := by
  rcases addr_cases a with ⟨k, rfl⟩ | ⟨k, rfl⟩ | ⟨k, rfl⟩ | rfl | rfl | rfl | rfl | ha
  · rw [decodeWrite_idAddr]; rfl
  · rw [decodeWrite_licAddr]; rfl
  · rw [decodeWrite_wbAddr]; rfl
  · exact decodeCommand_wf d
  · rfl
  · rfl
  · rfl
  · rw [decodeWrite_reserved ha]; simpa [Instr.wf] using ha

/-- Settles O2: the kinds of word, each with the word of what it decodes to. -/
theorem encodeOfDecode : Obligations.EncodeOfDecode := by
  intro w
  rcases word_cases w with hr | ⟨a, d, rfl⟩ | ⟨a, d, rfl⟩
  · rw [canonicalWord_of_rsv hr, decode_of_rsv hr]
    exact ⟨bne_iff_ne.2 hr, rfl, rfl⟩
  · rw [canonicalWord_read, decode_read, decode_readWord]
    exact ⟨decodeRead_wf a, encode_decodeRead a, rfl⟩
  · rw [canonicalWord_writeWord, decode_writeWord]
    exact ⟨decodeWrite_wf a d, encode_decodeWrite a d, rfl⟩

/-- The decoder reads back the word of a well-formed instruction. -/
theorem decode_encode {i : Instr} (h : i.wf = true) : decode (encode i) = i := by
  cases i with
  | rdRsv a => exact (decode_readWord a).trans (decodeRead_reserved a (by simpa [Instr.wf] using h))
  | wrRsv a d => exact (decode_writeWord a d).trans (decodeWrite_reserved (by simpa [Instr.wf] using h) d)
  | cmdRsv d => exact (decode_writeWord cmdAddr d).trans (decodeCommand_reserved (BitVec.le_def.1 (of_decide_eq_true h)))
  | illegal w => exact decode_of_rsv (bne_iff_ne.1 h)
  | rdId k => exact (decode_readWord _).trans (decodeRead_idAddr k)
  | rdLic k => exact (decode_readWord _).trans (decodeRead_licAddr k)
  | rdWb k => exact (decode_readWord _).trans (decodeRead_wbAddr k)
  | wrId k d => exact (decode_writeWord _ d).trans (decodeWrite_idAddr k d)
  | wrLic k d => exact (decode_writeWord _ d).trans (decodeWrite_licAddr k d)
  | wrWb k d => exact (decode_writeWord _ d).trans (decodeWrite_wbAddr k d)
  | rdCmd | rdStatus | rdPoly | rdSeed => exact decode_readWord _
  | wrStatus d | wrPoly d | wrSeed d => exact decode_writeWord _ d
  | cmdNop | cmdStart | cmdInit | cmdStep | cmdClear => exact decode_writeWord _ _

/-- Settles O1: `decode_encode`, by the constructors. -/
theorem decodeOfEncode : Obligations.DecodeOfEncode := fun _ h => decode_encode h

/-- Settles O5: the twelve words decoded. -/
theorem sampleWordsDecode : Obligations.SampleWordsDecode := by
  unfold Obligations.SampleWordsDecode
  decide

/-! ## The register address map (20_memory.md R51) -/

theorem regWrite_idAddr (k : Index) (d : Byte) (s : State) :
    regWrite (idAddr k) d s = if s.active then raiseError .busy s else writeId k d s := by
  simp [regWrite, idAddr_operands k]

/-- Outside the identifier's group the map gives a write no effect. -/
theorem regWrite_of_other_group {a : Addr} (h : addrGroup a ≠ 0b00) (d : Byte) (s : State) : regWrite a d s = s := by
  unfold regWrite
  split
  case h_1 hg _ => exact absurd hg h
  case h_2 => rfl

theorem regWrite_of_no_index {a : Addr} (h : regIndex a = none) (d : Byte) (s : State) : regWrite a d s = s := by
  simp [regWrite, h]

theorem regWrite_reserved {a : Addr} (ha : a ∈ reservedAddrs) (d : Byte) (s : State) : regWrite a d s = s := by
  rcases reservedAddrs_cases a ha with ⟨-, hk⟩ | ⟨hg, -⟩
  · exact regWrite_of_no_index hk d s
  · exact regWrite_of_other_group (by rw [hg]; decide) d s

/-- Away from the command port a write's instruction is the map's write. -/
theorem exec_decodeWrite {a : Addr} (ha : a ≠ cmdAddr) (d : Byte) (s : State) :
    exec (decodeWrite a d) s = .next (giveNothing (regWrite a d s)) := by
  rcases addr_cases a with ⟨k, rfl⟩ | ⟨k, rfl⟩ | ⟨k, rfl⟩ | rfl | rfl | rfl | rfl | hrsv
  · rw [decodeWrite_idAddr, regWrite_idAddr]; rfl
  · rw [decodeWrite_licAddr, regWrite_of_other_group (by rw [(licAddr_operands k).1]; decide)]; rfl
  · rw [decodeWrite_wbAddr, regWrite_of_other_group (by rw [(wbAddr_operands k).1]; decide)]; rfl
  · exact absurd rfl ha
  · rfl
  · rfl
  · rfl
  · rw [decodeWrite_reserved hrsv, regWrite_reserved hrsv]; rfl

/-- Settles O8: both descriptions distinguish illegal words, reads, the command port and the other writes. -/
theorem instructionsRefineRegisterMap : Obligations.InstructionsRefineRegisterMap := by
  intro w s
  rcases word_cases w with hr | ⟨a, d, rfl⟩ | ⟨a, d, rfl⟩
  · rw [decode_of_rsv hr, busTransaction, if_pos hr]
    exact execIllegal_eq w s
  · rw [decode_read, exec_decodeRead]
    simp [busTransaction]
  · rw [decode_writeWord]
    by_cases ha : a = cmdAddr
    · subst ha
      simp [busTransaction, writeWord]
    · rw [exec_decodeWrite ha]
      simp [busTransaction, writeWord, ha]

/-! ## The disassembler (R83) -/

open Asm

/-- The register named at an address has that address. -/
theorem regAt_addr {a : Addr} {r : Reg} (h : regAt a = some r) : r.addr = a := by
  have hall : ∀ a : Addr, regAt a = none ∨ (regAt a).map Reg.addr = some a := by decide +kernel
  simpa [h] using hall a

theorem cmdAt_code {d : Byte} {c : CmdName} (h : cmdAt d = some c) : c.code = d := by
  unfold cmdAt at h
  split at h <;> cases h <;> rfl

theorem disassemble_of_rsv {w : BusWord} (h : rsvField w ≠ 0b00) : disassemble w = .word w := if_pos h

/-- A read word's line shows its address alone. -/
theorem disassemble_read (a : Addr) (d : Byte) :
    disassemble (busWord false 0b00 a d) = disassemble (readWord a) := by
  simp [disassemble, readWord]

theorem assemble_disassemble_readWord (a : Addr) : assemble (disassemble (readWord a)) = readWord a := by
  cases hr : regAt a with
  | none => simp [disassemble, readWord, hr, assemble]
  | some r => simp [disassemble, readWord, hr, assemble, regAt_addr hr]

/-- At the command port the line is `cmd`, with the command's name or its code. -/
theorem assemble_disassemble_command (d : Byte) : assemble (disassemble (writeWord cmdAddr d)) = writeWord cmdAddr d := by
  have hport : regAt cmdAddr = some .cmd := rfl
  cases hc : cmdAt d with
  | none => simp [disassemble, writeWord, hport, hc, assemble]
  | some c => simp [disassemble, writeWord, hport, hc, assemble, cmdAt_code hc]

theorem assemble_disassemble_writeWord (a : Addr) (d : Byte) : assemble (disassemble (writeWord a d)) = writeWord a d := by
  cases hr : regAt a with
  | none => simp [disassemble, writeWord, hr, assemble]
  | some r =>
    have haddr := regAt_addr hr
    cases r with
    | cmd =>
      subst haddr
      exact assemble_disassemble_command d
    | _ => simp [disassemble, writeWord, hr, assemble, haddr]

/-- Settles O9: the three kinds of word, with the address and the code read back from the names. -/
theorem disassembledWordAssembles : Obligations.DisassembledWordAssembles := by
  intro w
  rcases word_cases w with hr | ⟨a, d, rfl⟩ | ⟨a, d, rfl⟩
  · rw [canonicalWord_of_rsv hr, disassemble_of_rsv hr]
    exact ⟨rfl, rfl⟩
  · rw [canonicalWord_read, disassemble_read]
    exact ⟨assemble_disassemble_readWord a, rfl⟩
  · rw [canonicalWord_writeWord]
    exact ⟨assemble_disassemble_writeWord a d, rfl⟩

end Sys2Proof.Machine
end

section
/-! SUPPORT. The opcode table (30_encoding.md section 3): its rows look at the high byte alone, or are the commands' rows, so the
claim that they partition the words is settled by the 256 high bytes and the 256 command codes. -/

namespace Sys2Proof.Machine

/-- The row looks at the high byte alone. -/
def highByteRow (r : OpcodeRow) : Bool := r.mask &&& 0xFF00 == r.mask

/-- The row holds words of the command port alone. -/
def commandPortRow (r : OpcodeRow) : Bool := r.mask &&& 0xFF00 == 0xFF00 && r.pattern &&& 0xFF00 == 0x9800

theorem opcodeTable_rows : ∀ r ∈ opcodeTable, highByteRow r = true ∨ commandPortRow r = true := by decide +kernel

/-- Two words with the same high byte are in the same rows that look at it alone. -/
theorem covers_of_highByteRow {r : OpcodeRow} (hr : highByteRow r = true) {v w : BusWord} (h : v &&& 0xFF00 = w &&& 0xFF00) :
    r.covers v = r.covers w := by
  have hmask : r.mask = 0xFF00 &&& r.mask := by
    rw [BitVec.and_comm]
    exact (beq_iff_eq.1 hr).symm
  rw [OpcodeRow.covers, OpcodeRow.covers, hmask, ← BitVec.and_assoc, ← BitVec.and_assoc, h]

/-- A command's row covers words of the command port alone. -/
theorem covers_of_commandPortRow {r : OpcodeRow} (hr : commandPortRow r = true) {w : BusWord} (hw : w &&& 0xFF00 ≠ 0x9800) :
    r.covers w = false := by
  obtain ⟨hmask, hpattern⟩ : r.mask &&& 0xFF00 = 0xFF00 ∧ r.pattern &&& 0xFF00 = 0x9800 := by
    simpa [commandPortRow] using hr
  refine beq_eq_false_iff_ne.2 fun hc => hw ?_
  calc w &&& 0xFF00 = w &&& (r.mask &&& 0xFF00) := by rw [hmask]
    _ = r.pattern &&& 0xFF00 := by rw [← BitVec.and_assoc, hc]
    _ = 0x9800 := hpattern

/-- The mnemonics of the rows that cover the word. -/
def rowMnemonics (w : BusWord) : List String := (opcodeTable.filter fun r => r.covers w).map OpcodeRow.mnemonic

/-- Away from the command port the rows depend on the high byte alone. -/
theorem rowMnemonics_congr {v w : BusWord} (h : v &&& 0xFF00 = w &&& 0xFF00) (hw : w &&& 0xFF00 ≠ 0x9800) :
    rowMnemonics v = rowMnemonics w := by
  unfold rowMnemonics
  congr 1
  refine List.filter_congr fun r hmem => ?_
  rcases opcodeTable_rows r hmem with hr | hr
  · exact covers_of_highByteRow hr h
  · rw [covers_of_commandPortRow hr hw, covers_of_commandPortRow hr (h ▸ hw)]

/-- Away from the command port the mnemonic depends on the address alone. -/
theorem decodeWrite_mnemonic {a : Addr} (ha : a ≠ cmdAddr) (d e : Byte) :
    (decodeWrite a d).mnemonic = (decodeWrite a e).mnemonic := by
  rcases addr_cases a with ⟨k, rfl⟩ | ⟨k, rfl⟩ | ⟨k, rfl⟩ | rfl | rfl | rfl | rfl | hrsv
  · rw [decodeWrite_idAddr, decodeWrite_idAddr]; rfl
  · rw [decodeWrite_licAddr, decodeWrite_licAddr]; rfl
  · rw [decodeWrite_wbAddr, decodeWrite_wbAddr]; rfl
  · exact absurd rfl ha
  · rfl
  · rfl
  · rfl
  · rw [decodeWrite_reserved hrsv, decodeWrite_reserved hrsv]; rfl

theorem decode_mnemonic_of_not_commandPort {b : Bool} {r : BitVec 2} {a : Addr} (h : busWord b r a 0x00 ≠ 0x9800) (d : Byte) :
    (decode (busWord b r a d)).mnemonic = (decode (busWord b r a 0x00)).mnemonic := by
  by_cases hr : r = 0b00
  · subst hr
    rw [decode_busWord, decode_busWord]
    cases b with
    | false => rfl
    | true => exact decodeWrite_mnemonic (by rintro rfl; exact h rfl) d 0x00
  · rw [decode_of_rsv (by simpa using hr), decode_of_rsv (by simpa using hr)]
    rfl

theorem rowMnemonics_highBytes : ∀ (b : Bool) (r : BitVec 2) (a : Addr), busWord b r a 0x00 ≠ 0x9800 →
    rowMnemonics (busWord b r a 0x00) = [(decode (busWord b r a 0x00)).mnemonic] := by
  decide +kernel

theorem rowMnemonics_commandPort : ∀ d : Byte,
    rowMnemonics (busWord true 0b00 cmdAddr d) = [(decode (busWord true 0b00 cmdAddr d)).mnemonic] := by
  decide +kernel

/-- Settles O4: a word of the command port is one of 256, and any other is in the rows of its high byte. -/
theorem opcodeTablePartitionsWords : Obligations.OpcodeTablePartitionsWords := by
  refine ⟨by decide +kernel, fun w => ?_⟩
  change rowMnemonics w = [(decode w).mnemonic]
  obtain ⟨b, r, a, d, rfl⟩ : ∃ b r a d, w = busWord b r a d := ⟨_, _, _, _, (busWord_fields w).symm⟩
  by_cases hport : busWord b r a 0x00 = 0x9800
  · have hb : b = true := (writeBit_busWord b r a 0x00).symm.trans (congrArg writeBit hport)
    have hr : r = 0b00 := (rsvField_busWord b r a 0x00).symm.trans (congrArg rsvField hport)
    have ha : a = cmdAddr := (addrField_busWord b r a 0x00).symm.trans (congrArg addrField hport)
    subst hb hr ha
    exact rowMnemonics_commandPort d
  · have hhigh := busWord_and_highByte b r a
    rw [rowMnemonics_congr ((hhigh d).trans (hhigh 0x00).symm) (by rwa [hhigh]), decode_mnemonic_of_not_commandPort hport]
    exact rowMnemonics_highBytes b r a hport

end Sys2Proof.Machine
end

section
/-! SUPPORT. The assembly forms and macros (30_encoding.md R81, R82) by their words. -/

namespace Sys2Proof.Machine

open Asm

theorem readWord_eq_wordAt {base k : Nat} {a : Addr} (h : base + 0x100 * k = 0x100 * a.toNat) :
    readWord a = wordAt base k 0x00 :=
  (wordAt_eq_busWord (b := false) (a := a) (by simpa using h) 0x00).symm

theorem writeWord_eq_wordAt {base k : Nat} {a : Addr} (h : base + 0x100 * k = 0x8000 + 0x100 * a.toNat) (d : Byte) :
    writeWord a d = wordAt base k d :=
  (wordAt_eq_busWord (b := true) (a := a) h d).symm

theorem assemble_wr_id (k : Index) (d : Byte) : assemble (.wr (.id k) d) = wordAt 0x8000 k d :=
  writeWord_eq_wordAt (by rw [Reg.addr, idAddr_toNat]) d

theorem assemble_rd_lic (k : Index) : assemble (.rd (.lic k)) = wordAt 0x0800 k 0x00 :=
  readWord_eq_wordAt (by rw [Reg.addr, licAddr_toNat]; omega)

/-- Settles O10: a form's word is the word of its address and data, and the macros are written in forms. -/
theorem assemblyFormsAndMacros : Obligations.AssemblyFormsAndMacros := by
  refine ⟨fun k d => ⟨?_, assemble_rd_lic k, ?_, assemble_wr_id k d, ?_, ?_⟩, fun d => ⟨?_, ?_, ?_, ?_⟩, rfl, rfl, rfl, rfl,
    rfl, rfl, rfl, rfl, rfl, fun a d => ⟨?_, ?_, ?_⟩, fun w => rfl, fun b polls => ⟨?_, ?_, ?_, ?_, ?_⟩⟩
  · exact readWord_eq_wordAt (by rw [Reg.addr, idAddr_toNat]; omega)
  · exact readWord_eq_wordAt (by rw [Reg.addr, wbAddr_toNat]; omega)
  · exact writeWord_eq_wordAt (by rw [Reg.addr, licAddr_toNat]; omega) d
  · exact writeWord_eq_wordAt (by rw [Reg.addr, wbAddr_toNat]; omega) d
  · exact writeWord_eq_wordAt rfl d
  · exact writeWord_eq_wordAt rfl d
  · exact writeWord_eq_wordAt rfl d
  · exact writeWord_eq_wordAt rfl d
  · exact readWord_eq_wordAt (Nat.zero_add _)
  · exact writeWord_eq_wordAt rfl d
  · exact writeWord_eq_wordAt rfl d
  · exact List.map_congr_left fun k _ => assemble_wr_id k b[k]
  · rfl
  · rfl
  · rfl
  · refine congrArg (0x9802 :: ·) (List.flatMap_congr fun i _ => ?_)
    rw [traceRound, assemble_rd_lic]
    rfl

end Sys2Proof.Machine
end

section
/-! SUPPORT. The buffer of a stage (41_cascade.md R123, R132): `mixed`, byte by byte, and the loop of the reference function (R124)
in closed form. -/

namespace Sys2Proof.Machine

theorem mixed_getElem (x : Bytes6) (k j : Index) : (mixed x k)[j] = if j ≤ k then x[j] else Config.template[j] := by
  simp [mixed]

/-- The buffer of stage `k` reads the identifier's bytes 0 to `k` alone. -/
theorem mixed_congr {x y : Bytes6} {k : Index} (h : ∀ j : Index, j ≤ k → x[j] = y[j]) : mixed x k = mixed y k := by
  unfold mixed
  congr 1
  funext j
  split
  case isTrue hj => exact h j hj
  case isFalse => rfl

/-- Two buffers with the same bytes are the same. -/
theorem bytes6_ext {a b : Bytes6} (h : ∀ j : Index, a[j] = b[j]) : a = b :=
  Vector.ext fun j hj => h ⟨j, hj⟩

theorem set_getElem (b : Bytes6) (k j : Index) (v : Byte) : (b.set k v)[j] = if k = j then v else b[j] := by
  simp [Vector.getElem_set, Fin.ext_iff]

/-- Writing byte `k` into a buffer that holds the identifier below `k` and the template above it makes the buffer of stage `k`. -/
theorem set_eq_mixed {b x : Bytes6} {k : Index} (hbelow : ∀ j : Index, j < k → b[j] = x[j])
    (habove : ∀ j : Index, k < j → b[j] = Config.template[j]) : b.set k x[k] = mixed x k := by
  refine bytes6_ext fun j => ?_
  rw [set_getElem, mixed_getElem]
  rcases lt_trichotomy j k with hj | rfl | hj
  · rw [if_neg hj.ne', if_pos hj.le, hbelow j hj]
  · simp
  · rw [if_neg hj.ne, if_neg hj.not_ge, habove j hj]

theorem template_set_zero (x : Bytes6) : Config.template.set (0 : Index) x[(0 : Index)] = mixed x 0 :=
  set_eq_mixed (fun j hj => absurd hj (Fin.not_lt_zero j)) fun _ _ => rfl

/-- One iteration of R124's loop takes the buffer of one stage to that of the next. -/
theorem mixed_set_next (x : Bytes6) {k j : Index} (h : j.val = k.val + 1) : (mixed x k).set j x[j] = mixed x j := by
  refine set_eq_mixed (fun i hi => ?_) fun i hi => ?_
  · rw [mixed_getElem, if_pos (Fin.le_def.2 (by have := Fin.lt_def.1 hi; omega))]
  · rw [mixed_getElem, if_neg fun hk => by have := Fin.lt_def.1 hi; have := Fin.le_def.1 hk; omega]

/-- The loop of R124 leaves in each byte the checksum of its stage's buffer. -/
theorem derive_eq_map (x : Bytes6) : derive x = (List.finRange 6).map fun k => crc8 (mixed x k) := by
  simp only [derive, deriveLoop, template_set_zero, mixed_set_next x (k := 0) (j := 1) rfl,
    mixed_set_next x (k := 1) (j := 2) rfl, mixed_set_next x (k := 2) (j := 3) rfl, mixed_set_next x (k := 3) (j := 4) rfl,
    mixed_set_next x (k := 4) (j := 5) rfl]
  rfl

@[simp] theorem derive_length (x : Bytes6) : (derive x).length = 6 := by
  simp [derive_eq_map]

/-- Byte `k` of the derived license. -/
theorem derive_getElem? (x : Bytes6) (k : Index) : (derive x)[k.val]? = some (crc8 (mixed x k)) := by
  simp [derive_eq_map]

/-- A license whose bytes are the stages' checksums is the derived one. -/
theorem toList_eq_derive {lic x : Bytes6} (h : ∀ k : Index, lic[k] = crc8 (mixed x k)) : lic.toList = derive x := by
  have hlic : lic = Vector.ofFn fun k => crc8 (mixed x k) := bytes6_ext fun k => by simpa using h k
  rw [hlic, derive_eq_map, Vector.toList_ofFn, List.ofFn_eq_map]

/-- Settles O19: `derive_eq_map` follows the loop through the buffers of the six stages. -/
theorem deriveClosedForm : Obligations.DeriveClosedForm :=
  fun x => ⟨derive_eq_map x, derive_length x⟩

/-- Settles O25: the closed values of the three corner identifiers. -/
theorem cornerIdentifiers : Obligations.CornerIdentifiers :=
  ⟨by decide +kernel, by decide +kernel, by decide +kernel⟩

end Sys2Proof.Machine
end

section
/-! SUPPORT. The checksum over GF(2) (40_checksum.md R106, R108): the bit step is linear and one to one, so the checksum is affine and
one changed byte changes it; and so the claims about which output bytes an identifier byte changes (41_cascade.md R126, R127). -/

namespace Sys2Proof.Machine

/-! ## The byte step (R106) -/

/-- The folded value is linear in bit 7. -/
theorem poly_fold_xor (p q : Bool) :
    (if (p ^^ q) = true then 0x07#8 else 0x00#8) =
      (if p = true then 0x07#8 else 0x00#8) ^^^ (if q = true then 0x07#8 else 0x00#8) := by
  revert p q
  decide

theorem bitstep_xor (a b : Byte) : bitstep (a ^^^ b) = bitstep a ^^^ bitstep b := by
  rw [bitstep_eq_xor, bitstep_eq_xor a, bitstep_eq_xor b, BitVec.getLsbD_xor, poly_fold_xor, BitVec.shiftLeft_xor_distrib]
  ac_rfl

theorem iterate_bitstep_xor (n : Nat) (a b : Byte) : bitstep^[n] (a ^^^ b) = bitstep^[n] a ^^^ bitstep^[n] b := by
  induction n generalizing a b with
  | zero => rfl
  | succ n ih => rw [Function.iterate_succ_apply, bitstep_xor, ih]; rfl

/-- The byte step is linear in the accumulator and the byte together. -/
theorem bytestep_xor (a b c d : Byte) : bytestep (a ^^^ b) (c ^^^ d) = bytestep a c ^^^ bytestep b d := by
  unfold bytestep
  rw [← iterate_bitstep_xor]
  congr 1
  ac_rfl

/-- The byte step sees its two operands through their XOR alone. -/
theorem bytestep_eq_zero_xor (c b : Byte) : bytestep c b = bytestep 0x00 (c ^^^ b) := by
  simp [bytestep]

/-- The printed table is the byte step from 0. -/
theorem byteTable_getElem? : ∀ x : Byte, byteTable[x.toNat]? = some (bytestep 0x00 x) := by
  decide +kernel

/-- Settles O14: `bitstep_xor`, and the table's 256 entries at the XOR of the operands. -/
theorem byteStepIsTableLookup : Obligations.ByteStepIsTableLookup := by
  refine ⟨bitstep_xor, fun c b => ⟨bytestep_eq_zero_xor c b, ?_⟩, by decide +kernel, rfl⟩
  rw [byteTable_getElem?, bytestep_eq_zero_xor c b]

/-! ## The checksum of a list of bytes (R108) -/

/-- The checksum is linear in the start value and the bytes together. -/
theorem crcFrom_zipWith_xor {p q : List Byte} (hlen : p.length = q.length) (a b : Byte) :
    crcFrom (a ^^^ b) (List.zipWith (· ^^^ ·) p q) = crcFrom a p ^^^ crcFrom b q := by
  induction p generalizing q a b with
  | nil =>
    cases q with
    | nil => rfl
    | cons y q => simp at hlen
  | cons x p ih =>
    cases q with
    | nil => simp at hlen
    | cons y q => rw [List.zipWith_cons_cons, crcFrom_cons, bytestep_xor, ih (by simpa using hlen)]; rfl

theorem bitstep_eq_zero : ∀ c : Byte, bitstep c = 0x00 → c = 0x00 := by
  decide +kernel

theorem iterate_bitstep_eq_zero {n : Nat} {c : Byte} (h : bitstep^[n] c = 0x00) : c = 0x00 := by
  induction n generalizing c with
  | zero => exact h
  | succ n ih => exact bitstep_eq_zero c (ih h)

/-- The byte step reaches 0 from equal operands alone. -/
theorem bytestep_eq_zero {c b : Byte} (h : bytestep c b = 0x00) : c = b :=
  BitVec.xor_eq_zero_iff.1 (iterate_bitstep_eq_zero h)

theorem crcFrom_zeros_eq_zero {c : Byte} {n : Nat} (h : crcFrom c (List.replicate n 0x00) = 0x00) : c = 0x00 := by
  induction n generalizing c with
  | zero => exact h
  | succ n ih => exact bytestep_eq_zero (ih h)

/-- One nonzero byte among zeros has a nonzero checksum from 0. -/
theorem crcFrom_set_zeros_ne {n k : Nat} (hk : k < n) {v : Byte} (hv : v ≠ 0x00) :
    crcFrom 0x00 ((List.replicate n 0x00).set k v) ≠ 0x00 := by
  induction n generalizing k with
  | zero => exact absurd hk (Nat.not_lt_zero k)
  | succ n ih =>
    cases k with
    | zero => exact fun h => hv (bytestep_eq_zero (crcFrom_zeros_eq_zero h)).symm
    | succ k => exact ih (Nat.lt_of_succ_lt_succ hk)

/-! ## The checksum of a buffer -/

theorem crcFrom_zipWith_toList (p q : Bytes6) (a b : Byte) :
    crcFrom (a ^^^ b) (Vector.zipWith (· ^^^ ·) p q).toList = crcFrom a p.toList ^^^ crcFrom b q.toList := by
  rw [Vector.toList_zipWith]
  exact crcFrom_zipWith_xor (by simp) a b

theorem crc8_xor (p q : Bytes6) : crc8 p ^^^ crc8 q = crcFrom 0x00 (Vector.zipWith (· ^^^ ·) p q).toList := by
  rw [crc8_eq_crcFrom_seed, crc8_eq_crcFrom_seed, ← crcFrom_zipWith_toList]
  rfl

theorem crcFrom_zeros_set_ne (k : Index) {v : Byte} (hv : v ≠ 0x00) : crcFrom 0x00 (zeros.set k v).toList ≠ 0x00 := by
  rw [Vector.toList_set, zeros, Vector.toList_replicate]
  exact crcFrom_set_zeros_ne k.isLt hv

/-- Two buffers that differ in byte `k` alone differ by that byte's XOR among zeros. -/
theorem zipWith_xor_set (p : Bytes6) (k : Index) (v : Byte) :
    Vector.zipWith (· ^^^ ·) (p.set k v) p = zeros.set k (v ^^^ p[k]) := by
  refine bytes6_ext fun j => ?_
  have hzip : (Vector.zipWith (· ^^^ ·) (p.set k v) p)[j] = (p.set k v)[j] ^^^ p[j] := Vector.getElem_zipWith ..
  rw [hzip, set_getElem, set_getElem]
  split
  case isTrue hj => rw [hj]
  case isFalse => exact BitVec.xor_self.trans (Vector.getElem_replicate j.isLt).symm

/-- Changing one byte of the buffer changes the checksum. -/
theorem crc8_set_ne {p : Bytes6} {k : Index} {v : Byte} (hv : v ≠ p[k]) : crc8 (p.set k v) ≠ crc8 p := by
  rw [ne_eq, ← BitVec.xor_eq_zero_iff, crc8_xor, zipWith_xor_set]
  exact crcFrom_zeros_set_ne k (mt BitVec.xor_eq_zero_iff.1 hv)

/-- Settles O16: `crcFrom_zipWith_toList` from equal and from zero start values, and the byte step reaching 0 from equal operands
alone. -/
theorem checksumIsAffine : Obligations.ChecksumIsAffine :=
  ⟨crc8_xor, fun p q => crcFrom_zipWith_toList p q 0x00 0x00, fun k _ hv => crcFrom_zeros_set_ne k hv,
    fun _ _ _ hv => crc8_set_ne hv⟩

/-! ## Which output bytes an identifier byte changes (R126, R127) -/

theorem derive_getElem?_congr {x y : Bytes6} {k : Index} (h : ∀ j : Index, j ≤ k → x[j] = y[j]) :
    (derive x)[k.val]? = (derive y)[k.val]? := by
  rw [derive_getElem?, derive_getElem?, mixed_congr h]

/-- From byte `p` on, the stages' buffers of two identifiers that differ in byte `p` alone do too. -/
theorem mixed_eq_set {x y : Bytes6} {p k : Index} (hrest : ∀ j : Index, j ≠ p → x[j] = y[j]) (hp : p ≤ k) :
    mixed x k = (mixed y k).set p x[p] := by
  refine bytes6_ext fun j => ?_
  rw [set_getElem, mixed_getElem, mixed_getElem]
  by_cases hj : p = j
  · subst hj
    rw [if_pos hp, if_pos rfl]
  · rw [if_neg hj, hrest j (Ne.symm hj)]

theorem derive_getElem?_ne {x y : Bytes6} {p k : Index} (hp : x[p] ≠ y[p]) (hrest : ∀ j : Index, j ≠ p → x[j] = y[j])
    (hk : p ≤ k) : (derive x)[k.val]? ≠ (derive y)[k.val]? := by
  rw [derive_getElem?, derive_getElem?, mixed_eq_set hrest hk, ne_eq, Option.some.injEq]
  exact crc8_set_ne (by rwa [mixed_getElem, if_pos hk])

/-- Settles O23: before byte `p` the buffers agree, and from it on they differ in one byte, which the checksum sees. -/
theorem sensitivityOfDerive : Obligations.SensitivityOfDerive := by
  intro x y p hp hrest
  refine ⟨fun j hj => derive_getElem?_congr fun i hi => hrest i (lt_of_le_of_lt hi hj).ne, fun j hj => ?_⟩
  exact derive_getElem?_ne hp hrest hj

/-- Settles O24: the buffer of stage `k` holds the identifier's bytes 0 to `k`, and the last stage's all six. -/
theorem outputByteDependsOnPrefix : Obligations.OutputByteDependsOnPrefix := by
  refine ⟨fun x y k h => derive_getElem?_congr h, fun x p v hv => ?_⟩
  have hp : (x.set p v)[p] ≠ x[p] := by rwa [set_getElem, if_pos rfl]
  have hrest (j : Index) (hj : j ≠ p) : (x.set p v)[j] = x[j] := by rw [set_getElem, if_neg (Ne.symm hj)]
  exact derive_getElem?_ne (k := 5) hp hrest (Fin.le_def.2 (Nat.lt_succ_iff.1 p.isLt))

end Sys2Proof.Machine
end

section
/-! SUPPORT. The checksum as a polynomial remainder over GF(2) (40_checksum.md R107): the bit step multiplies by `x` modulo `G`, and so
the byte steps collect `(start x^(8n) + M) x^8`. -/

namespace Sys2Proof.Machine

open Polynomial

/-! ## Bytes as polynomials -/

/-- In characteristic 2 equal bits cancel. -/
theorem bit_term_xor (p q : Bool) (t : (ZMod 2)[X]) :
    (if (p ^^ q) = true then t else 0) = (if p = true then t else 0) + (if q = true then t else 0) := by
  have htwo : t + t = 0 := CharTwo.add_self_eq_zero t
  cases p <;> cases q <;> simp [htwo]

theorem bytePoly_xor (a b : Byte) : bytePoly (a ^^^ b) = bytePoly a + bytePoly b := by
  simp only [bytePoly, BitVec.getLsbD_xor, bit_term_xor, Finset.sum_add_distrib]

theorem bytePoly_degree_lt (v : Byte) : (bytePoly v).degree < 8 := by
  refine mem_degreeLT.1 (Submodule.sum_mem _ fun i hi => mem_degreeLT.2 ?_)
  have hdeg : (X ^ i : (ZMod 2)[X]).degree < 8 := by
    rw [degree_X_pow]
    exact_mod_cast Finset.mem_range.1 hi
  split
  · exact hdeg
  · rw [degree_zero]
    exact WithBot.bot_lt_coe 8

theorem genPoly_monic : genPoly.Monic := by
  unfold genPoly
  monicity!

theorem genPoly_degree : genPoly.degree = 8 := by
  unfold genPoly
  compute_degree!

/-! ## The bit step -/

/-- Shifting left multiplies by `x`, but for bit 7, which moves out. -/
theorem bytePoly_mul_X (c : Byte) : bytePoly c * X = bytePoly (c <<< 1) + if c.getLsbD 7 = true then X ^ 8 else 0 := by
  have hshift : bytePoly (c <<< 1) = ∑ i ∈ Finset.range 7, if c.getLsbD i = true then (X ^ (i + 1) : (ZMod 2)[X]) else 0 := by
    have hzero : (c <<< 1).getLsbD 0 = false := by simp
    rw [bytePoly, Finset.sum_range_succ', hzero, if_neg Bool.false_ne_true, add_zero]
    refine Finset.sum_congr rfl fun i hi => ?_
    have hi7 : i < 7 := Finset.mem_range.1 hi
    have hbit : (c <<< 1).getLsbD (i + 1) = c.getLsbD i := by simp [BitVec.getLsbD_shiftLeft]; omega
    rw [hbit]
  rw [hshift, bytePoly, Finset.sum_range_succ, add_mul, Finset.sum_mul]
  simp only [ite_mul, zero_mul, ← pow_succ]

/-- What the bit step folds in is what `G` adds to `x^8`. -/
theorem bytePoly_fold (p : Bool) :
    bytePoly (if p = true then 0x07#8 else 0x00#8) + (if p = true then genPoly else 0) = if p = true then X ^ 8 else 0 := by
  have hpoly : bytePoly 0x07#8 = X ^ 2 + X + 1 := by simp [bytePoly, Finset.sum_range_succ]; ring
  have hzero : bytePoly 0x00#8 = 0 := by simp [bytePoly]
  have htwo : (X ^ 2 + X + 1 : (ZMod 2)[X]) + (X ^ 2 + X + 1) = 0 := CharTwo.add_self_eq_zero _
  cases p with
  | false => simp [hzero]
  | true => simp only [if_true, hpoly, genPoly]; linear_combination htwo

/-- One bit step multiplies by `x`, up to a multiple of `G`. -/
theorem bytePoly_bitstep_add (c : Byte) :
    bytePoly (bitstep c) + (if c.getLsbD 7 = true then genPoly else 0) = bytePoly c * X := by
  rw [bitstep_eq_xor, bytePoly_xor, add_assoc, bytePoly_fold, bytePoly_mul_X]

/-! ## Congruence modulo `G` -/

/-- The two polynomials have the same remainder by `G`. -/
def CongrGen (p q : (ZMod 2)[X]) : Prop := genPoly ∣ p - q

theorem CongrGen.refl (p : (ZMod 2)[X]) : CongrGen p p := by simp [CongrGen]

theorem CongrGen.trans {p q r : (ZMod 2)[X]} (h : CongrGen p q) (h' : CongrGen q r) : CongrGen p r := by
  simpa [CongrGen] using dvd_add h h'

theorem CongrGen.mul_right {p q : (ZMod 2)[X]} (h : CongrGen p q) (r : (ZMod 2)[X]) : CongrGen (p * r) (q * r) := by
  simpa [CongrGen, sub_mul] using Dvd.dvd.mul_right h r

theorem CongrGen.add_right {p q : (ZMod 2)[X]} (h : CongrGen p q) (r : (ZMod 2)[X]) : CongrGen (p + r) (q + r) := by
  simpa [CongrGen] using h

/-- A byte is its own remainder, so it is the remainder of whatever it is congruent to. -/
theorem CongrGen.bytePoly_eq {v : Byte} {p : (ZMod 2)[X]} (h : CongrGen (bytePoly v) p) : bytePoly v = p %ₘ genPoly := by
  rw [← modByMonic_eq_of_dvd_sub genPoly_monic h]
  exact ((modByMonic_eq_self_iff genPoly_monic).2 (by rw [genPoly_degree]; exact bytePoly_degree_lt v)).symm

theorem bitstep_congr (c : Byte) : CongrGen (bytePoly (bitstep c)) (bytePoly c * X) := by
  rw [← bytePoly_bitstep_add, CongrGen, sub_add_cancel_left]
  split <;> simp

theorem iterate_bitstep_congr (n : Nat) (c : Byte) : CongrGen (bytePoly (bitstep^[n] c)) (bytePoly c * X ^ n) := by
  induction n generalizing c with
  | zero => simpa using CongrGen.refl (bytePoly c)
  | succ n ih =>
    refine (ih (bitstep c)).trans ?_
    simpa [pow_succ', mul_assoc] using (bitstep_congr c).mul_right (X ^ n)

theorem bytestep_congr (c b : Byte) : CongrGen (bytePoly (bytestep c b)) ((bytePoly c + bytePoly b) * X ^ 8) := by
  rw [← bytePoly_xor]
  exact iterate_bitstep_congr 8 (c ^^^ b)

/-! ## The checksum -/

/-- A list of bytes as a polynomial, the first byte most significant: `M` for a list of any length. -/
noncomputable def listPoly : List Byte → (ZMod 2)[X]
  | [] => 0
  | b :: bytes => bytePoly b * X ^ (8 * bytes.length) + listPoly bytes

/-- The byte steps over a list collect `start x^(8n) + M x^8`. -/
theorem crcFrom_congr (start : Byte) (bytes : List Byte) :
    CongrGen (bytePoly (crcFrom start bytes)) (bytePoly start * X ^ (8 * bytes.length) + listPoly bytes * X ^ 8) := by
  induction bytes generalizing start with
  | nil => simpa [listPoly] using CongrGen.refl (bytePoly start)
  | cons b bytes ih =>
    have hstep := ((bytestep_congr start b).mul_right (X ^ (8 * bytes.length))).add_right (listPoly bytes * X ^ 8)
    refine (ih (bytestep start b)).trans ?_
    convert hstep using 1
    rw [listPoly, List.length_cons, Nat.mul_succ, pow_add]
    ring

theorem listPoly_toList (buf : Bytes6) : listPoly buf.toList = bufferPoly buf := by
  have hlist : buf.toList = (List.finRange 6).map fun j => buf[j] := by
    rw [← List.ofFn_eq_map, ← Vector.toList_ofFn]
    exact congrArg Vector.toList (bytes6_ext fun j => by simp)
  rw [hlist, bufferPoly, Fin.sum_univ_six]
  simp [List.finRange_succ, listPoly, add_assoc]

/-- Settles O15: the bit step is congruent to a product by `x`, the checksum to the collected product, and a byte is its own
remainder. -/
theorem checksumIsPolynomialRemainder : Obligations.ChecksumIsPolynomialRemainder := by
  refine ⟨fun c => (bitstep_congr c).bytePoly_eq, fun buf => CongrGen.bytePoly_eq ?_⟩
  have hcollect : (bytePoly Config.seed * X ^ 40 + bufferPoly buf) * X ^ 8 =
      bytePoly Config.seed * X ^ (8 * buf.toList.length) + listPoly buf.toList * X ^ 8 := by
    rw [listPoly_toList, Vector.length_toList]
    ring
  rw [hcollect]
  exact crcFrom_congr Config.seed buf.toList

end Sys2Proof.Machine
end

section
/-! SUPPORT. Whose step is taken: every step is the reset step, a stage step, one host instruction, or leaves the engine as it is
(20_memory.md R58), said once and with what is due in each case. -/

namespace Sys2Proof.Machine

/-- The engine's own fields (10_state.md R20) are the same in both states. -/
def SameEngine (s t : State) : Prop :=
  t = { s with resetHeld := t.resetHeld, reply := t.reply, schedule := t.schedule, freeCount := t.freeCount }

/-- What the step from `s` to `t` is, the schedule left with `rest`. -/
inductive StepKind (s t : State) : Prop
  | reset (rest : List Event) (hr : dueReset s = true) (hs : dueStage s = false) (hi : dueInstr s = none)
      (ht : t = resetEngine (s.facing rest))
  | stage (rest : List Event) (k : Index) (hr : dueReset s = false) (hs : dueStage s = true) (hi : dueInstr s = none)
      (hb : s.busy = true) (hk : s.stage.toNat = k.val) (ht : t = runStage k (s.facing rest))
  | instr (rest : List Event) (i : Instr) (hr : dueReset s = false) (hs : dueStage s = false) (hi : dueInstr s = some i)
      (ht : exec i (s.facing rest) = .next t)
  | idle (hr : dueReset s = false) (hs : dueStage s = false) (hi : dueInstr s = none) (ht : SameEngine s t)

/-- An engine's turn is a stage step if one is due, and otherwise nothing. -/
theorem stepKind_of_engineTurn {s t : State} {rest : List Event} (hturn : s.schedule = [] ∨ s.schedule = .engine :: rest)
    (h : engineTurn (s.facing rest) = .next t) : StepKind s t := by
  have hr : dueReset s = false := by rcases hturn with hs | hs <;> simp [dueReset, hs]
  have hi : dueInstr s = none := by rcases hturn with hs | hs <;> cases hh : s.resetHeld <;> simp [dueInstr, hs, hh]
  have hdue : dueStage s = (s.busy && !s.resetHeld) := by rcases hturn with hs | hs <;> simp [dueStage, hs]
  rcases engineTurn_cases (s.facing rest) with ⟨hoff, e⟩ | ⟨hk, hb, hh, e⟩ | ⟨-, -, -, e⟩ <;> cases e.symm.trans h
  · exact .idle hr (hdue.trans hoff) hi rfl
  · have hon : (s.busy && !s.resetHeld) = true := by rw [show s.busy = true from hb, show s.resetHeld = false from hh]; rfl
    exact .stage rest ⟨s.stage.toNat, hk⟩ hr (hdue.trans hon) hi hb rfl rfl

/-- A host word is its instruction, or is used up while reset stays asserted (R230). -/
theorem stepKind_of_hostTurn {s t : State} {w : BusWord} {rest : List Event} (hw : s.schedule = .word w :: rest)
    (h : hostTurn w (s.facing rest) = .next t) : StepKind s t := by
  have hr : dueReset s = false := by simp [dueReset, hw]
  have hs : dueStage s = false := by simp [dueStage, hw]
  cases hh : s.resetHeld with
  | false =>
    exact .instr rest (decode w) hr hs (by simp [dueInstr, hw, hh]) ((hostTurn_released (s := s.facing rest) hh w).symm.trans h)
  | true =>
    refine .idle hr hs (by simp [dueInstr, hh]) ?_
    cases (hostTurn_held (s := s.facing rest) hh w).symm.trans h
    rw [overlapReset_eq]
    rfl

/-- Every step is of one of the four kinds. -/
theorem stepKind {s t : State} (h : step s = .next t) : StepKind s t := by
  rcases step_cases h with ⟨hs, ht⟩ | ⟨e, rest, hs, ht⟩
  · exact stepKind_of_engineTurn (rest := []) (.inl hs) ((congrArg engineTurn (by rw [← hs]; rfl)).trans ht)
  · cases e with
    | word w => exact stepKind_of_hostTurn hs ht
    | engine => exact stepKind_of_engineTurn (.inr hs) ht
    | resetAssert =>
      cases ht
      exact .reset rest (by simp [dueReset, hs]) (by simp [dueStage, hs])
        (by cases hh : s.resetHeld <;> simp [dueInstr, hs, hh]) rfl
    | resetRelease =>
      cases ht
      exact .idle (by simp [dueReset, hs]) (by simp [dueStage, hs])
        (by cases hh : s.resetHeld <;> simp [dueInstr, hs, hh]) rfl

end Sys2Proof.Machine
end

section
/-! SUPPORT. The invariants of 10_state.md R37 (`Consistent`): they hold wherever a derivation begins, a stage keeps them, and
so does every step; no run from a state that has them stops. -/

namespace Sys2Proof.Machine

/-! ## Where they hold -/

/-- The invariants speak of `ID`, `WB`, `LIC`, `STAGE`, `BUSY` and `DONE` alone. -/
theorem Consistent.environment {s : State} (h : Consistent s) (e : ErrCode) (m : Mode) (held : Bool) (r : Option Byte)
    (es : List Event) (n : Nat) :
    Consistent { s with errc := e, mode := m, resetHeld := held, reply := r, schedule := es, freeCount := n } :=
  ⟨h.stage_range, h.busy_range, h.done_iff, h.ahead, h.produced, h.copied⟩

theorem Consistent.facing {s : State} (h : Consistent s) (es : List Event) : Consistent (s.facing es) := h.environment ..

theorem Consistent.sameEngine {s t : State} (h : Consistent s) (ht : SameEngine s t) : Consistent t := by
  rw [ht]
  exact h.environment ..

theorem zeros_getElem (k : Index) : zeros[k] = 0x00 := Vector.getElem_replicate k.isLt

/-- At the constants a derivation starts from the invariants hold, whatever the identifier and `BUSY`. -/
theorem consistent_of_fresh {s : State} (hwb : s.wb = Config.template) (hlic : s.lic = zeros) (h0 : s.stage = 0)
    (hd : s.done = false) : Consistent s where
  stage_range := by simp [h0]
  busy_range _ := by simp [h0]
  done_iff := by simp [h0, hd]
  ahead k _ := ⟨by rw [hwb], by rw [hlic, zeros_getElem]⟩
  produced k hk := by simp [h0] at hk
  copied _ k hk := by simp [h0] at hk

/-- Settles O45: the reset state holds the constants a derivation starts from. -/
theorem invariantsAfterReset : Obligations.InvariantsAfterReset :=
  consistent_of_fresh rfl rfl rfl rfl

/-! ## What they say of the buffer and the license -/

theorem stage_eq_iff {s : State} {n : Nat} (hn : n < 8) : s.stage = BitVec.ofNat 3 n ↔ s.stage.toNat = n := by
  rw [← BitVec.toNat_inj, BitVec.toNat_ofNat, Nat.mod_eq_of_lt hn]

theorem stage_eq_six_iff {s : State} : s.stage = 6 ↔ s.stage.toNat = 6 := stage_eq_iff (n := 6) (by decide)

theorem partDone_iff (s : State) : s.partDone = true ↔ 1 ≤ s.stage.toNat ∧ s.stage.toNat ≤ 5 := by
  simp [State.partDone, BitVec.le_def]

/-- Before the last stage the buffer's bytes below `STAGE` are the identifier's (items 6 and 2 of R37). -/
theorem Consistent.wb_below {s : State} (h : Consistent s) (h5 : s.stage.toNat ≤ 5) {k : Index} (hk : k.val < s.stage.toNat) :
    s.wb[k] = s.id[k] :=
  h.copied ((partDone_iff s).2 ⟨by omega, h5⟩) k hk

/-- Before the last stage, writing the next byte makes the buffer of that stage. -/
theorem Consistent.wb_set {s : State} (h : Consistent s) {k : Index} (hk : s.stage.toNat = k.val) :
    s.wb.set k s.id[k] = mixed s.id k :=
  set_eq_mixed (fun j hj => h.wb_below (by omega) (by rw [hk]; exact hj))
    fun j hj => (h.ahead j (by rw [hk]; exact Nat.le_of_lt hj)).1

/-! ## A stage (R120) -/

theorem runStage_stage_toNat {s : State} {k : Index} (hk : s.stage.toNat = k.val) :
    (runStage k s).stage.toNat = k.val + 1 := by
  have := k.isLt
  rw [runStage_stage, BitVec.toNat_add, hk]
  exact Nat.mod_eq_of_lt (show k.val + 1 < 8 by omega)

/-- The stage step that leaves `STAGE = 6` is stage 5. -/
theorem runStage_stage_eq_six {s : State} {k : Index} (hk : s.stage.toNat = k.val) :
    (runStage k s).stage = 6 ↔ k.val = 5 := by
  rw [stage_eq_six_iff, runStage_stage_toNat hk]
  omega

theorem Consistent.done_of_stage {s : State} (h : Consistent s) (h5 : s.stage.toNat ≤ 5) : s.done = false := by
  rw [Bool.eq_false_iff, ne_eq, h.done_iff, stage_eq_six_iff]
  omega

/-- A stage keeps the invariants. -/
theorem runStage_consistent {s : State} (h : Consistent s) {k : Index} (hk : s.stage.toNat = k.val) :
    Consistent (runStage k s) where
  stage_range := by rw [runStage_stage_toNat hk]; omega
  busy_range hb := by
    rw [runStage_stage_toNat hk]
    by_contra hlast
    simp [busyAfter, show k.val + 1 = 6 by omega] at hb
  done_iff := by
    rw [runStage_stage_eq_six hk, runStage_done, doneAfter, h.done_of_stage (by omega)]
    simp
  ahead j hj := by
    rw [runStage_stage_toNat hk] at hj
    have hne : k ≠ j := by rintro rfl; omega
    rw [runStage_wb, runStage_lic, set_getElem, set_getElem, if_neg hne, if_neg hne]
    exact h.ahead j (by omega)
  produced j hj := by
    rw [runStage_stage_toNat hk] at hj
    rw [runStage_wb, runStage_lic, set_getElem, h.wb_set hk]
    split
    case isTrue hkj =>
      subst hkj
      exact congrArg crc8 (mixed_congr fun i hi => by rw [mixed_getElem, if_pos hi]).symm
    case isFalse hkj =>
      have hjk : j < k := lt_of_le_of_ne (Nat.lt_succ_iff.1 hj) (Ne.symm hkj)
      rw [h.produced j (by rw [hk]; exact hjk)]
      refine congrArg crc8 (mixed_congr fun i hi => ?_)
      have hik : i < k := lt_of_le_of_lt hi hjk
      rw [mixed_getElem, if_pos hik.le, h.wb_below (by omega) (by rw [hk]; exact hik)]
  copied _ j hj := by
    rw [runStage_stage_toNat hk] at hj
    rw [runStage_wb, h.wb_set hk, mixed_getElem, if_pos (Fin.le_def.2 (by omega)), runStage_id]

/-! ## Every step -/

/-- An instruction keeps the invariants: it changes none of their fields, or begins a derivation, or enables the engine before
the last stage, or writes the identifier while no derivation is part done. -/
theorem exec_consistent {s t : State} (h : Consistent s) {i : Instr} (ht : exec i s = .next t) : Consistent t := by
  rcases exec_cases i s with ⟨_, e⟩ | ⟨_, _, e⟩ | ⟨k, d, -, ha, e⟩ | ⟨-, -, e⟩ | ⟨-, -, e⟩ | ⟨-, -, h6, e⟩ | ⟨-, e⟩ <;>
    cases e.symm.trans ht
  · exact h.environment ..
  · exact h.environment ..
  · refine ⟨h.stage_range, h.busy_range, h.done_iff, h.ahead, h.produced, fun hpart => ?_⟩
    have hactive : s.active = true := by
      rw [State.active, show s.partDone = true from hpart, Bool.or_true]
    exact absurd (hactive.symm.trans ha) (by decide)
  · exact consistent_of_fresh rfl rfl rfl rfl
  · exact consistent_of_fresh rfl rfl rfl rfl
  · refine ⟨h.stage_range, fun _ => ?_, h.done_iff, h.ahead, h.produced, h.copied⟩
    have hrange := h.stage_range
    rw [ne_eq, stage_eq_six_iff] at h6
    exact Nat.le_of_lt_succ (lt_of_le_of_ne hrange h6)
  · exact consistent_of_fresh rfl rfl rfl rfl

/-- Every step keeps the invariants. -/
theorem step_consistent {s t : State} (h : Consistent s) (ht : step s = .next t) : Consistent t := by
  cases stepKind ht with
  | reset rest _ _ _ ht => exact ht ▸ consistent_of_fresh rfl rfl rfl rfl
  | stage rest k _ _ _ _ hk ht => exact ht ▸ runStage_consistent (h.facing rest) hk
  | instr rest i _ _ _ ht => exact exec_consistent (h.facing rest) ht
  | idle _ _ _ ht => exact h.sameEngine ht

/-- Settles O46: `step_consistent`, by the four kinds of step. -/
theorem stepKeepsInvariants : Obligations.StepKeepsInvariants :=
  fun _ _ h ht => step_consistent h ht

/-! ## No run stops -/

/-- While `STAGE` is at most 5 whenever `BUSY` is set, the engine's turn answers a next state. -/
theorem engineTurn_next {s : State} (h : s.busy = true → s.stage.toNat ≤ 5) : ∃ t, engineTurn s = .next t := by
  rcases engineTurn_cases s with ⟨-, e⟩ | ⟨_, -, -, e⟩ | ⟨h6, hb, -, -⟩
  · exact ⟨_, e⟩
  · exact ⟨_, e⟩
  · exact absurd (h hb) (by omega)

/-- No other agent's event stops, so then no event does. -/
theorem perform_next {s : State} (h : s.busy = true → s.stage.toNat ≤ 5) (e : Event) : ∃ t, perform e s = .next t := by
  cases e with
  | word w =>
    change ∃ t, hostTurn w s = .next t
    cases hr : s.resetHeld with
    | false =>
      obtain ⟨t, ht, -⟩ := exec_next (decode w) s
      exact ⟨t, (hostTurn_released hr w).trans ht⟩
    | true => exact ⟨_, hostTurn_held hr w⟩
  | engine => exact engineTurn_next h
  | resetAssert => exact ⟨_, rfl⟩
  | resetRelease => exact ⟨_, rfl⟩

theorem step_next_of_consistent {s : State} (h : Consistent s) : ∃ t, step s = .next t := by
  cases hs : s.schedule with
  | nil =>
    rw [step_nil hs]
    exact engineTurn_next h.busy_range
  | cons e rest =>
    rw [step_cons hs]
    exact perform_next (s := s.facing rest) h.busy_range e

/-- A run from a state with the invariants answers a next state that has them. -/
theorem runFor_consistent {s : State} (h : Consistent s) (n : Nat) : ∃ t, runFor n s = .next t ∧ Consistent t := by
  induction n generalizing s with
  | zero => exact ⟨s, rfl, h⟩
  | succ n ih =>
    obtain ⟨t, ht⟩ := step_next_of_consistent h
    rw [runFor_next n ht]
    exact ih (step_consistent h ht)

theorem safe_of_consistent {s : State} (h : Consistent s) : Safe s := fun n =>
  let ⟨t, ht, _⟩ := runFor_consistent h n
  ⟨t, ht⟩

/-- What a run from reset reaches has the invariants. -/
theorem consistent_of_reachable {s : State} (h : Reachable s) : Consistent s := by
  obtain ⟨es, n, hs⟩ := h
  have hreset : Consistent (State.reset.facing es) := consistent_of_fresh rfl rfl rfl rfl
  obtain ⟨t, ht, hc⟩ := runFor_consistent hreset n
  cases hs.symm.trans ht
  exact hc

/-- Settles O47: the one fault needs `BUSY` with `STAGE` past 5, which item 2 of R37 excludes along the run. -/
theorem noRunStops : Obligations.NoRunStops :=
  ⟨fun _ h => safe_of_consistent h, fun _ h => safe_of_consistent (consistent_of_reachable h)⟩

end Sys2Proof.Machine
end

section
/-! SUPPORT. Who writes which field (10_state.md R20, R34, R37 item 7; 60_exceptions.md R205, R207), from what one instruction can
change and the four kinds of step. -/

namespace Sys2Proof.Machine

/-! ## One instruction -/

/-- An instruction leaves the derivation's fields, or is one that sets them to the constants a derivation starts from. -/
theorem exec_result {i : Instr} {s t : State} (h : exec i s = .next t) :
    (t.wb = s.wb ∧ t.lic = s.lic ∧ t.stage = s.stage ∧ t.done = s.done) ∨
      ((i = .cmdStart ∨ i = .cmdInit ∨ i = .cmdClear) ∧ t.stage = 0 ∧ t.done = false) := by
  rcases exec_cases i s with ⟨_, e⟩ | ⟨_, _, e⟩ | ⟨_, _, -, -, e⟩ | ⟨hi, -, e⟩ | ⟨hi, -, e⟩ | ⟨-, -, -, e⟩ | ⟨hi, e⟩ <;>
    cases e.symm.trans h
  case inr.inr.inr.inl => exact .inr ⟨.inl hi, rfl, rfl⟩
  case inr.inr.inr.inr.inl => exact .inr ⟨.inr (.inl hi), rfl, rfl⟩
  case inr.inr.inr.inr.inr.inr => exact .inr ⟨.inr (.inr hi), rfl, rfl⟩
  all_goals exact .inl ⟨rfl, rfl, rfl, rfl⟩

theorem exec_busy {i : Instr} {s t : State} (h : exec i s = .next t) :
    t.busy = s.busy ∨ i = .cmdStart ∨ i = .cmdStep ∨ i = .cmdClear := by
  rcases exec_cases i s with ⟨_, e⟩ | ⟨_, _, e⟩ | ⟨_, _, -, -, e⟩ | ⟨hi, -, e⟩ | ⟨-, -, e⟩ | ⟨hi, -, -, e⟩ | ⟨hi, e⟩ <;>
    cases e.symm.trans h
  case inr.inr.inr.inl => exact .inr (.inl hi)
  case inr.inr.inr.inr.inr.inl => exact .inr (.inr (.inl hi))
  case inr.inr.inr.inr.inr.inr => exact .inr (.inr (.inr hi))
  all_goals exact .inl rfl

theorem exec_mode {i : Instr} {s t : State} (h : exec i s = .next t) : t.mode = s.mode ∨ i = .cmdStart ∨ i = .cmdStep := by
  rcases exec_cases i s with ⟨_, e⟩ | ⟨_, _, e⟩ | ⟨_, _, -, -, e⟩ | ⟨hi, -, e⟩ | ⟨-, -, e⟩ | ⟨hi, -, -, e⟩ | ⟨-, e⟩ <;>
    cases e.symm.trans h
  case inr.inr.inr.inl => exact .inr (.inl hi)
  case inr.inr.inr.inr.inr.inl => exact .inr (.inr hi)
  all_goals exact .inl rfl

/-- In a state with the invariants `CMD.START`, `CMD.INIT` and `CMD.CLEAR` leave `DONE` at 0, for a refused one finds it there. -/
theorem exec_restart_done {i : Instr} {s t : State} (hc : Consistent s) (hi : i = .cmdStart ∨ i = .cmdInit ∨ i = .cmdClear)
    (h : exec i s = .next t) : t.done = false := by
  cases hb : s.busy with
  | true =>
    rcases exec_result h with ⟨-, -, -, hd⟩ | ⟨-, -, hd⟩
    · exact hd.trans (hc.done_of_stage (hc.busy_range hb))
    · exact hd
  | false =>
    rcases hi with rfl | rfl | rfl
    · cases (execCmdStart_idle hb).symm.trans h
      rfl
    · cases (execCmdInit_idle hb).symm.trans h
      rfl
    · cases h
      rfl

/-! ## `ERRC` under one step (R202, R205) -/

/-- The next step is one that clears `ERRC`: reset or `CMD.CLEAR`. -/
def ClearsError (s : State) : Prop := dueReset s = true ∨ dueInstr s = some .cmdClear

/-- The next step is an instruction that raises an error by R201's table. -/
def RaisesError (s : State) : Prop := ∃ i c, dueInstr s = some i ∧ Raises i s c

theorem raises_facing (i : Instr) (s : State) (es : List Event) (c : ErrCode) : Raises i (s.facing es) c ↔ Raises i s c := by
  cases c <;> exact Iff.rfl

theorem not_raises_cmdClear (s : State) (c : ErrCode) : ¬ Raises .cmdClear s c := by
  cases c <;> simp [Raises]

theorem not_raises_none (i : Instr) (s : State) : ¬ Raises i s .none := id

/-- A step clears the error, or raises one, or leaves `ERRC`; no step does two of these. -/
theorem step_errc {s t : State} (h : step s = .next t) :
    (ClearsError s ∧ ¬ RaisesError s ∧ t.errc = .none) ∨
    (¬ ClearsError s ∧ ∃ i c, dueInstr s = some i ∧ Raises i s c ∧ t.errc = firstError s.errc c) ∨
    (¬ ClearsError s ∧ ¬ RaisesError s ∧ t.errc = s.errc) := by
  have hquiet (hr : dueReset s = false) (hi : dueInstr s = none) : ¬ ClearsError s ∧ ¬ RaisesError s := by
    simp [ClearsError, RaisesError, hr, hi]
  cases stepKind h with
  | reset rest hr _ hi ht => exact .inl ⟨.inl hr, by simp [RaisesError, hi], by rw [ht, resetEngine_errc]⟩
  | stage rest k hr _ hi _ _ ht =>
    obtain ⟨hclear, hraise⟩ := hquiet hr hi
    exact .inr (.inr ⟨hclear, hraise, by rw [ht]; rfl⟩)
  | idle hr _ hi ht =>
    obtain ⟨hclear, hraise⟩ := hquiet hr hi
    exact .inr (.inr ⟨hclear, hraise, by rw [ht]⟩)
  | instr rest i hr _ hi ht =>
    by_cases hic : i = .cmdClear
    · subst hic
      cases ht
      exact .inl ⟨.inr hi, by simp [RaisesError, hi, not_raises_cmdClear], rfl⟩
    have hclear : ¬ ClearsError s := by simp [ClearsError, hr, hi, hic]
    by_cases hraise : ∃ c, Raises i s c
    · obtain ⟨c, hc⟩ := hraise
      cases (exec_of_raises ((raises_facing i s rest c).2 hc)).symm.trans ht
      exact .inr (.inl ⟨hclear, i, c, hi, hc, rfl⟩)
    · rcases raises_or_exec_errc i (s.facing rest) with ⟨c, hc⟩ | ⟨u, hu, herr⟩
      · exact absurd ⟨c, (raises_facing i s rest c).1 hc⟩ hraise
      · cases hu.symm.trans ht
        exact .inr (.inr ⟨hclear, by simpa [RaisesError, hi] using hraise, by rw [herr, if_neg hic]; rfl⟩)

/-- Settles O43: `step_errc`, with a recorded error winning over a later one. -/
theorem recordedErrorStays : Obligations.RecordedErrorStays := by
  intro s t hs h
  rcases step_errc h with ⟨hclear, -, ht⟩ | ⟨-, i, c, -, -, ht⟩ | ⟨-, -, ht⟩
  · exact .inr ⟨ht, hclear.symm⟩
  · exact .inl (ht.trans (firstError_of_recorded hs c))
  · exact .inl ht

/-! ## The other fields under one step -/

theorem step_errc_writers {s t : State} (h : step s = .next t) (hne : t.errc ≠ s.errc) :
    dueReset s = true ∨ dueInstr s = some .cmdClear ∨ ∃ i c, dueInstr s = some i ∧ Raises i s c := by
  rcases step_errc h with ⟨hr | hi, -⟩ | ⟨-, i, c, hi, hc, -⟩ | ⟨-, -, ht⟩
  · exact .inl hr
  · exact .inr (.inl hi)
  · exact .inr (.inr ⟨i, c, hi, hc⟩)
  · exact absurd ht hne

/-- Settles O49: reset and a stage are writers of the fields they change, and an instruction's case is the lemma on the field. -/
theorem fieldsWrittenOnlyBy : Obligations.FieldsWrittenOnlyBy := by
  intro s t h
  have herrc := step_errc_writers h
  cases stepKind h with
  | reset _ hr => exact ⟨fun _ => .inl hr, fun _ => .inl hr, fun _ => .inl hr, herrc, fun _ => .inl hr⟩
  | stage _ _ _ hs _ _ _ ht =>
    have hid : t.id = s.id := by rw [ht]; rfl
    have hmode : t.mode = s.mode := by rw [ht]; rfl
    exact ⟨fun hne => absurd hid hne, fun _ => .inr (.inl hs), fun _ => .inr (.inl hs), herrc, fun hne => absurd hmode hne⟩
  | idle _ _ _ ht =>
    obtain ⟨hid, hwb, hlic, hstage, hbusy, hdone, hmode⟩ : t.id = s.id ∧ t.wb = s.wb ∧ t.lic = s.lic ∧ t.stage = s.stage ∧
        t.busy = s.busy ∧ t.done = s.done ∧ t.mode = s.mode := by
      rw [ht]
      exact ⟨rfl, rfl, rfl, rfl, rfl, rfl, rfl⟩
    exact ⟨fun hne => absurd hid hne, fun hne => by simp [hwb, hlic, hstage, hdone] at hne, fun hne => absurd hbusy hne, herrc,
      fun hne => absurd hmode hne⟩
  | instr _ i _ _ hi ht =>
    simp only [hi, Option.some.injEq] at herrc ⊢
    refine ⟨fun hne => ?_, fun hne => ?_, fun hne => ?_, herrc, fun hne => ?_⟩
    · exact .inr ((exec_id ht).resolve_left hne).2
    · rcases exec_result ht with ⟨hwb, hlic, hstage, hdone⟩ | ⟨hrestart, -⟩
      · simp [hwb, hlic, hstage, hdone] at hne
      · exact .inr (.inr hrestart)
    · exact .inr (.inr ((exec_busy ht).resolve_left hne))
    · exact .inr ((exec_mode ht).resolve_left hne)

/-! ## After the last stage (R37 item 7) -/

theorem mixed_last (x : Bytes6) : mixed x 5 = x :=
  bytes6_ext fun j => by rw [mixed_getElem, if_pos (Fin.le_def.2 (Nat.lt_succ_iff.1 j.isLt))]

/-- Settles O48: the last stage's buffer is the whole identifier, and while `STAGE` stays 6 no instruction has begun a new
derivation. -/
theorem staleResultOnlyByIdWrite : Obligations.StaleResultOnlyByIdWrite := by
  intro s t hc h h6
  cases stepKind h with
  | reset _ _ _ _ ht => exact absurd (by rw [ht] at h6; exact h6) (by decide : (0 : BitVec 3) ≠ 6)
  | stage rest k _ _ _ _ hk ht =>
    rw [ht, runStage_stage_eq_six (s := s.facing rest) hk] at h6
    have hk5 : k = 5 := Fin.ext h6
    refine ⟨fun _ => ?_, fun hs6 => ?_⟩
    · rw [ht, runStage_wb, runStage_id, (hc.facing rest).wb_set hk, hk5, mixed_last]
    · rw [stage_eq_six_iff] at hs6
      omega
  | instr _ i _ _ hi ht =>
    rcases exec_result ht with ⟨hwb, hlic, hstage, -⟩ | ⟨-, h0, -⟩
    · refine ⟨fun hs6 => absurd (hstage.symm.trans h6) hs6, fun _ => ⟨hwb, hlic, ?_⟩⟩
      refine (exec_id ht).imp_right fun ⟨_, k, d, hwr⟩ => ⟨k, d, hi.trans (congrArg some hwr)⟩
    · exact absurd (h0.symm.trans h6) (by decide)
  | idle _ _ _ ht =>
    rw [ht] at h6 ⊢
    exact ⟨fun hs6 => absurd h6 hs6, fun _ => ⟨rfl, rfl, .inl rfl⟩⟩

/-! ## The level outputs (R34, R207) -/

theorem doneO_eq (s : State) : s.doneO = s.done := rfl

theorem errO_eq (s : State) : s.errO = decide (s.errc ≠ .none) := err_eq_decide s

/-- `DONE` under a step, by whether a stage step is due. -/
theorem step_done {s t : State} (h : step s = .next t) :
    (dueStage s = true ∧ t.done = if t.stage = 6 then true else s.done) ∨
    (dueStage s = false ∧
      (t.done = s.done ∨
        t.done = false ∧
          (dueReset s = true ∨ dueInstr s = some .cmdStart ∨ dueInstr s = some .cmdInit ∨ dueInstr s = some .cmdClear))) := by
  cases stepKind h with
  | reset _ hr hs _ ht => exact .inr ⟨hs, .inr ⟨by rw [ht]; rfl, .inl hr⟩⟩
  | stage rest k _ hs _ _ hk ht =>
    have hdone : t.done = if t.stage = 6 then true else s.done := by
      simp only [ht, runStage_stage_eq_six (s := s.facing rest) hk, runStage_done, doneAfter, Nat.reduceEqDiff, facing_done]
    exact .inl ⟨hs, hdone⟩
  | idle _ hs _ ht => exact .inr ⟨hs, .inl (by rw [ht])⟩
  | instr _ i _ hs hi ht =>
    simp only [hi, Option.some.injEq]
    rcases exec_result ht with ⟨-, -, -, hd⟩ | ⟨hrestart, -, hd⟩
    · exact .inr ⟨hs, .inl hd⟩
    · exact .inr ⟨hs, .inr ⟨hd, .inr hrestart⟩⟩

/-- From a state with the invariants, reset and the commands that begin or abort a derivation leave `DONE` at 0. -/
theorem step_restart_done {s t : State} (hc : Consistent s) (h : step s = .next t)
    (hdue : dueReset s = true ∨ dueInstr s = some .cmdStart ∨ dueInstr s = some .cmdInit ∨ dueInstr s = some .cmdClear) :
    t.done = false := by
  cases stepKind h with
  | reset _ _ _ _ ht => rw [ht]; rfl
  | stage _ _ hr _ hi => simp [hr, hi] at hdue
  | idle hr _ hi => simp [hr, hi] at hdue
  | instr rest i hr _ hi ht =>
    simp only [hr, hi, Option.some.injEq, Bool.false_eq_true, false_or] at hdue
    exact exec_restart_done (hc.facing rest) hdue ht

/-- Settles O60: `step_done` for `done_o`, `step_errc` for `err_o`. -/
theorem outputLevelsChangeOnlyBy : Obligations.OutputLevelsChangeOnlyBy := by
  refine ⟨fun s => ⟨rfl, errO_eq s⟩, fun s t h => ⟨fun hd => ?_, fun hs h6 => ?_, fun hd htd => ?_,
    fun hc => step_restart_done hc h, ?_⟩⟩
  · rw [doneO_eq] at hd ⊢
    rcases step_done h with ⟨hs, ht⟩ | ⟨hs, ht | ⟨ht, -⟩⟩ <;> simp [hs, ht, hd]
  · rcases step_done h with ⟨-, ht⟩ | ⟨hs', -⟩
    · simp [doneO_eq, ht, h6]
    · exact absurd (hs'.symm.trans hs) (by decide)
  · rw [doneO_eq] at hd htd
    rcases step_done h with ⟨-, ht⟩ | ⟨-, ht | ⟨-, hdue⟩⟩
    · simp [htd, hd] at ht
    · exact absurd (htd.symm.trans (ht.trans hd)) (by decide)
    · exact hdue
  · have herr : t.errO = decide (t.errc ≠ .none) := errO_eq t
    rcases step_errc h with ⟨hclear, hraise, ht⟩ | ⟨hclear, i, c, hi, hc, ht⟩ | ⟨hclear, hraise, ht⟩
    · have hto : t.errO = false := by simp [herr, ht]
      exact ⟨fun _ => iff_of_false (by simp [hto]) hraise, fun _ => iff_of_true hto hclear, fun _ => hto⟩
    · have hto : t.errO = true := by
        have hcode : c ≠ .none := by rintro rfl; exact not_raises_none i s hc
        by_cases hs : s.errc = .none <;> simp [herr, ht, firstError, hs, hcode]
      exact ⟨fun _ => iff_of_true hto ⟨i, c, hi, hc⟩, fun _ => iff_of_false (by simp [hto]) hclear, fun hd => absurd hd hclear⟩
    · have hto : t.errO = s.errO := by simp only [errO_eq, ht]
      exact ⟨fun hs => iff_of_false (by simp [hto, hs]) hraise, fun hs => iff_of_false (by simp [hto, hs]) hclear,
        fun hd => absurd hd hclear⟩

end Sys2Proof.Machine
end

section
/-! SUPPORT. A derivation from its beginning to its end (41_cascade.md R123, R125; 43_commands.md R171 to R173): the state after `n`
of its stages, what the stages and the other events make of it, and the settled claims about run-all and stepped derivations. -/

namespace Sys2Proof.Machine

/-! ## The derivation of `x`, `n` stages done -/

/-- `n` stages of the derivation of `x` are done. Past the last stage `copied` says more than R37: no identifier write has
followed. -/
structure Derivation (x : Bytes6) (n : Nat) (s : State) : Prop where
  consistent : Consistent s
  released : s.resetHeld = false
  stage : s.stage.toNat = n
  id : s.id = x
  copied : ∀ k : Index, k.val < n → s.wb[k] = x[k]

section
variable {x : Bytes6} {n : Nat} {s t : State}

/-- A derivation begins at the constants (R171, R172). -/
theorem derivation_of_fresh (hwb : s.wb = Config.template) (hlic : s.lic = zeros) (h0 : s.stage = 0) (hd : s.done = false)
    (hr : s.resetHeld = false) : Derivation s.id 0 s :=
  ⟨consistent_of_fresh hwb hlic h0 hd, hr, by simp [h0], rfl, fun _ hk => absurd hk (Nat.not_lt_zero _)⟩

/-- Before the last stage the invariants say that `STAGE` stages of the derivation of `ID` are done. -/
theorem Consistent.derivation (h : Consistent s) (h5 : s.stage.toNat ≤ 5) (hr : s.resetHeld = false) :
    Derivation s.id s.stage.toNat s :=
  ⟨h, hr, rfl, rfl, fun _ hk => h.wb_below h5 hk⟩

theorem Derivation.environment (h : Derivation x n s) (e : ErrCode) (m : Mode) (r : Option Byte) (es : List Event) :
    Derivation x n { s with errc := e, mode := m, reply := r, schedule := es } :=
  ⟨h.consistent.environment .., h.released, h.stage, h.id, h.copied⟩

theorem Derivation.wb_getElem (h : Derivation x n s) (k : Index) :
    s.wb[k] = if k.val < n then x[k] else Config.template[k] := by
  split
  case isTrue hk => exact h.copied k hk
  case isFalse hk => exact (h.consistent.ahead k (by rw [h.stage]; exact Nat.le_of_not_lt hk)).1

theorem Derivation.lic_getElem (h : Derivation x n s) (k : Index) :
    s.lic[k] = if k.val < n then crc8 (mixed x k) else 0x00 := by
  split
  case isTrue hk =>
    rw [h.consistent.produced k (by rw [h.stage]; exact hk)]
    exact congrArg crc8 (mixed_congr fun j hj => h.copied j (lt_of_le_of_lt hj hk))
  case isFalse hk => exact (h.consistent.ahead k (by rw [h.stage]; exact Nat.le_of_not_lt hk)).2

/-- Stage `n` takes the derivation from `n` stages done to `n + 1`. -/
theorem Derivation.after_stage (h : Derivation x n s) {k : Index} (hk : k.val = n) :
    Derivation x (n + 1) (runStage k s) := by
  have hstage : s.stage.toNat = k.val := h.stage.trans hk.symm
  refine ⟨runStage_consistent h.consistent hstage, h.released, by rw [runStage_stage_toNat hstage, hk], h.id, fun j hj => ?_⟩
  rw [runStage_wb, h.consistent.wb_set hstage, mixed_getElem, if_pos (Fin.le_def.2 (by omega)), h.id]

/-- The engine's turn on an enabled derivation is its next stage. -/
theorem Derivation.takes_stage (h : Derivation x n s) (hb : s.busy = true) :
    ∃ k : Index, k.val = n ∧ engineTurn s = .next (runStage k s) ∧ Derivation x (n + 1) (runStage k s) := by
  have hlt : s.stage.toNat < 6 := Nat.lt_succ_of_le (h.consistent.busy_range hb)
  exact ⟨⟨_, hlt⟩, h.stage, (engineTurn_due hb h.released).trans (stageStep_next hlt), h.after_stage h.stage⟩

/-! ### Finished -/

theorem Derivation.wb_eq (h : Derivation x 6 s) : s.wb = x := bytes6_ext fun k => h.copied k k.isLt

theorem Derivation.lic_eq_derive (h : Derivation x 6 s) : s.lic.toList = derive x :=
  toList_eq_derive fun k => by rw [h.lic_getElem, if_pos k.isLt]

theorem Derivation.stage_eq_six (h : Derivation x 6 s) : s.stage = 6 := stage_eq_six_iff.2 h.stage

theorem Derivation.done (h : Derivation x 6 s) : s.done = true := h.consistent.done_iff.2 h.stage_eq_six

theorem Derivation.busy (h : Derivation x 6 s) : s.busy = false := by
  by_contra hb
  have hrange := h.consistent.busy_range (by simpa using hb)
  rw [h.stage] at hrange
  exact absurd hrange (by decide)

/-- Finished derivations of one identifier have the same result. -/
theorem Derivation.lic_eq (hs : Derivation x 6 s) (ht : Derivation x 6 t) : s.lic = t.lic :=
  Vector.toList_inj.1 (hs.lic_eq_derive.trans ht.lic_eq_derive.symm)

/-! ## Host words during a derivation -/

/-- A host word with reset released performs its instruction. -/
theorem perform_hostEvent {i : Instr} (hwf : i.wf = true) (hr : s.resetHeld = false) : perform (hostEvent i) s = exec i s :=
  (hostTurn_released hr _).trans (congrArg (exec · s) (decode_encode hwf))

/-- While `BUSY` is set every instruction but `CMD.CLEAR` changes at most `ERRC` and the reply. -/
theorem exec_of_busy {i : Instr} (hb : s.busy = true) (hi : i ≠ .cmdClear) :
    ∃ e r, exec i s = .next { s with errc := e, reply := r } := by
  have hidle : s.busy ≠ false := by simp [hb]
  rcases exec_cases i s with ⟨r, e⟩ | ⟨c, r, e⟩ | ⟨_, _, -, ha, -⟩ | ⟨-, hf, -⟩ | ⟨-, hf, -⟩ | ⟨-, hf, -, -⟩ | ⟨hc, -⟩
  · exact ⟨s.errc, r, e⟩
  · exact ⟨_, r, e⟩
  · simp [State.active, hb] at ha
  · exact absurd hf hidle
  · exact absurd hf hidle
  · exact absurd hf hidle
  · exact absurd hc hi

/-! ## Run-all mode (R171) -/

/-- `n` stages of a run-all derivation of `x` are done and the next is enabled. -/
structure Running (x : Bytes6) (n : Nat) (s : State) : Prop extends Derivation x n s where
  enabled : s.busy = true
  runAll : s.mode = .all

/-- An event that neither aborts nor resets, and is not the engine's turn, leaves the derivation where it is. -/
theorem Running.perform_other {e : Event} (h : Running x n s) (hk : keepsRunning e = true) (he : e ≠ .engine) :
    ∃ t, perform e s = .next t ∧ Running x n t := by
  cases e with
  | word w =>
    obtain ⟨e, r, ht⟩ := exec_of_busy (i := decode w) h.enabled (by simpa [keepsRunning] using hk)
    exact ⟨_, (hostTurn_released h.released w).trans ht, h.environment e s.mode r s.schedule, h.enabled, h.runAll⟩
  | engine => exact absurd rfl he
  | resetAssert => simp [keepsRunning] at hk
  | resetRelease =>
    refine ⟨_, rfl, ⟨⟨h.consistent.environment .., rfl, h.stage, h.id, h.copied⟩, h.enabled, h.runAll⟩⟩

/-- The engine's turn before the last stage takes one stage, and the next is enabled at once. -/
theorem Running.perform_engine (h : Running x n s) (hn : n < 5) : ∃ t, perform .engine s = .next t ∧ Running x (n + 1) t := by
  obtain ⟨k, hk, ht, hder⟩ := h.takes_stage h.enabled
  refine ⟨_, ht, hder, ?_, h.runAll⟩
  have hlast : k.val + 1 ≠ 6 := by omega
  simp [busyAfter, h.runAll, h.enabled, hlast]

/-- Through any interleaving without an abort or a reset, the engine's turns count the stages done. -/
theorem Running.through {es : List Event} (h : Running x n s) (hk : es.all keepsRunning = true)
    (hturns : n + engineTurns es ≤ 5) : ∃ t, runThrough es s = .next t ∧ Running x (n + engineTurns es) t := by
  induction es generalizing n s with
  | nil => exact ⟨_, runThrough_nil s, h.environment s.errc s.mode s.reply [], h.enabled, h.runAll⟩
  | cons e es ih =>
    obtain ⟨hke, hkes⟩ : keepsRunning e = true ∧ es.all keepsRunning = true := by simpa using hk
    by_cases he : e = .engine
    · subst he
      have hcount : engineTurns (.engine :: es) = engineTurns es + 1 := List.count_cons_self
      rw [hcount] at hturns ⊢
      obtain ⟨t, ht, hrun⟩ := h.perform_engine (by omega)
      obtain ⟨u, hu, hend⟩ := ih hrun hkes (by omega)
      exact ⟨u, (runThrough_cons es ht).trans hu, by rwa [show n + (engineTurns es + 1) = n + 1 + engineTurns es by omega]⟩
    · have hcount : engineTurns (e :: es) = engineTurns es := List.count_cons_of_ne he
      rw [hcount] at hturns ⊢
      obtain ⟨t, ht, hrun⟩ := h.perform_other hke he
      obtain ⟨u, hu, hend⟩ := ih hrun hkes hturns
      exact ⟨u, (runThrough_cons es ht).trans hu, hend⟩

/-- `CMD.START` on an idle engine begins a run-all derivation of `ID`, and its stages are counted. -/
theorem runThrough_start {es : List Event} (hb : s.busy = false) (hr : s.resetHeld = false)
    (hk : es.all keepsRunning = true) (hturns : engineTurns es ≤ 5) :
    ∃ t, runThrough (hostEvent .cmdStart :: es) s = .next t ∧ Running s.id (engineTurns es) t := by
  have hstart : perform (hostEvent .cmdStart) s = .next (giveNothing (enableEngine .all (freshDerivation s))) :=
    (perform_hostEvent rfl hr).trans (execCmdStart_idle hb)
  have hrun : Running s.id 0 (giveNothing (enableEngine .all (freshDerivation s))) :=
    ⟨derivation_of_fresh (s := giveNothing (enableEngine .all (freshDerivation s))) rfl rfl rfl rfl hr, rfl, rfl⟩
  obtain ⟨t, ht, hend⟩ := hrun.through hk (by omega)
  exact ⟨t, (runThrough_cons es hstart).trans ht, by rwa [Nat.zero_add] at hend⟩

/-- The sixth stage step ends it. -/
theorem runThrough_start_engine {es : List Event} (hb : s.busy = false) (hr : s.resetHeld = false)
    (hk : es.all keepsRunning = true) (hturns : engineTurns es = 5) :
    ∃ t, runThrough (hostEvent .cmdStart :: es ++ [.engine]) s = .next t ∧ Derivation s.id 6 t := by
  obtain ⟨t, ht, hrun⟩ := runThrough_start hb hr hk hturns.le
  rw [hturns] at hrun
  obtain ⟨k, -, hturn, hder⟩ := hrun.takes_stage hrun.enabled
  refine ⟨_, (runThrough_append [.engine] ht).trans (runThrough_cons [] hturn), ?_⟩
  exact hder.environment t.errc t.mode t.reply []

end

/-- Settles O20: `runThrough_start`, with the bytes of `n` stages read off `Derivation`. -/
theorem runAllProgress : Obligations.RunAllProgress := by
  intro s es hb hr hk hturns
  obtain ⟨t, ht, hrun⟩ := runThrough_start hb hr hk hturns
  have hstage : t.stage = BitVec.ofNat 3 (engineTurns es) := (stage_eq_iff (by omega)).2 hrun.stage
  have hdone : t.done = false := hrun.consistent.done_of_stage (hrun.stage.le.trans hturns)
  exact ⟨t, ht, hrun.enabled, hdone, hstage, hrun.id, fun k => ⟨hrun.wb_getElem k, hrun.lic_getElem k⟩⟩

/-- Settles O21: after the sixth stage the derivation's bytes are the reference function's. -/
theorem runAllEndsWithDerive : Obligations.RunAllEndsWithDerive := by
  intro s es hb hr hk hturns
  obtain ⟨t, ht, hder⟩ := runThrough_start_engine hb hr hk hturns
  exact ⟨t, ht, hder.lic_eq_derive, hder.wb_eq, hder.id, hder.stage_eq_six, hder.done, hder.busy⟩

end Sys2Proof.Machine
end

section
/-! SUPPORT. Single stages (43_commands.md R173, 10_state.md R38): a round of `CMD.STEP`, polls and the stage, six rounds in a row, and
the settled claims that they end as a run-all derivation does. -/

namespace Sys2Proof.Machine

/-- `n` stages of the derivation of `x` are done and none is enabled. -/
structure Waiting (x : Bytes6) (n : Nat) (s : State) : Prop extends Derivation x n s where
  idle : s.busy = false

/-- One `CMD.STEP` with `early` polls before its stage and `late` polls after it. -/
def steppedRound (early late : Nat) : List Event := hostEvent .cmdStep :: polls early ++ .engine :: polls late

/-- One round after the other, each with its own numbers of polls. -/
def steppedRounds (rounds : List (Nat × Nat)) : List Event := rounds.flatMap fun p => steppedRound p.1 p.2

theorem waitedSteps_eq_rounds (early late : Index → Nat) :
    waitedSteps early late = steppedRounds ((List.finRange 6).map fun i => (early i, late i + 1)) :=
  (List.flatMap_map ..).symm

theorem sixSteps_eq_rounds : sixSteps = steppedRounds (List.replicate 6 (0, 0)) := rfl

/-- In single-stage mode every stage withdraws the enable (R120). -/
theorem busyAfter_one (k : Index) (busy : Bool) : busyAfter k .one busy = false := if_pos (Or.inl rfl)

section
variable {x : Bytes6} {n : Nat} {s : State}

/-- A poll changes the reply alone. -/
theorem perform_poll (hr : s.resetHeld = false) : perform (hostEvent .rdStatus) s = .next (giveBack s.status s) :=
  perform_hostEvent rfl hr

/-- Any number of polls changes the reply alone. -/
theorem runThrough_polls (hr : s.resetHeld = false) (n : Nat) (es : List Event) :
    ∃ r, runThrough (polls n ++ es) s = runThrough es { s with reply := r } := by
  induction n generalizing s with
  | zero => exact ⟨s.reply, rfl⟩
  | succ n ih =>
    obtain ⟨r, hrest⟩ := ih (s := giveBack s.status s) hr
    exact ⟨r, (runThrough_cons (polls n ++ es) (perform_poll hr)).trans hrest⟩

/-- An accepted `CMD.STEP` enables the next stage alone. -/
theorem perform_cmdStep (hb : s.busy = false) (hr : s.resetHeld = false) (h6 : s.stage ≠ 6) :
    perform (hostEvent .cmdStep) s = .next (giveNothing (enableEngine .one s)) :=
  (perform_hostEvent rfl hr).trans (execCmdStep_idle hb h6)

/-- The stage it enabled leaves the engine idle, one stage on. -/
theorem perform_engine_single (hb : s.busy = true) (hr : s.resetHeld = false) (hm : s.mode = .one) (h5 : s.stage.toNat < 6) :
    ∃ t, perform .engine s = .next t ∧ t.busy = false ∧ t.resetHeld = false ∧ t.errc = s.errc ∧
      t.stage.toNat = s.stage.toNat + 1 := by
  refine ⟨_, (engineTurn_due hb hr).trans (stageStep_next h5), ?_, hr, rfl, runStage_stage_toNat rfl⟩
  rw [runStage_busy, hm, busyAfter_one]

theorem Waiting.perform_step (h : Waiting x n s) (hn : n < 6) :
    perform (hostEvent .cmdStep) s = .next (giveNothing (enableEngine .one s)) ∧
      Derivation x n (giveNothing (enableEngine .one s)) := by
  have h6 : s.stage ≠ 6 := by rw [ne_eq, stage_eq_six_iff, h.stage]; omega
  have hexec : exec .cmdStep s = .next (giveNothing (enableEngine .one s)) := execCmdStep_idle h.idle h6
  exact ⟨perform_cmdStep h.idle h.released h6,
    ⟨exec_consistent h.consistent hexec, h.released, h.stage, h.id, h.copied⟩⟩

/-- A round takes one stage, with no error. -/
theorem Waiting.round (h : Waiting x n s) (hn : n < 6) (early late : Nat) (es : List Event) :
    ∃ t, runThrough (steppedRound early late ++ es) s = runThrough es t ∧ Waiting x (n + 1) t ∧ t.errc = s.errc := by
  obtain ⟨hstep, hder⟩ := h.perform_step hn
  obtain ⟨r, hearly⟩ := runThrough_polls (s := giveNothing (enableEngine .one s)) h.released early (.engine :: polls late ++ es)
  have hpolled := hder.environment s.errc .one r s.schedule
  obtain ⟨k, -, hturn, hnext⟩ := hpolled.takes_stage rfl
  obtain ⟨r', hlate⟩ := runThrough_polls hnext.released late es
  refine ⟨_, ?_, ⟨hnext.environment s.errc .one r' s.schedule, ?_⟩, rfl⟩
  · rw [steppedRound, List.cons_append, List.cons_append, runThrough_cons _ hstep, List.append_assoc, hearly, List.cons_append]
    exact (runThrough_cons (e := .engine) (polls late ++ es) hturn).trans hlate
  · exact busyAfter_one k true

theorem Waiting.rounds (rounds : List (Nat × Nat)) (h : Waiting x n s) (hn : n + rounds.length ≤ 6) :
    ∃ t, runThrough (steppedRounds rounds) s = .next t ∧ Waiting x (n + rounds.length) t ∧ t.errc = s.errc := by
  induction rounds generalizing n s with
  | nil => exact ⟨_, runThrough_nil s, ⟨h.environment s.errc s.mode s.reply [], h.idle⟩, rfl⟩
  | cons p rounds ih =>
    rw [List.length_cons] at hn ⊢
    obtain ⟨t, ht, hround, herr⟩ := h.round (by omega) p.1 p.2 (steppedRounds rounds)
    obtain ⟨u, hu, hend, herr'⟩ := ih hround (by omega)
    exact ⟨u, ht.trans hu, by rwa [show n + (rounds.length + 1) = n + 1 + rounds.length by omega], herr'.trans herr⟩

/-- `CMD.INIT` on an idle engine and six rounds derive the license of `ID`. -/
theorem runThrough_init_rounds {rounds : List (Nat × Nat)} (hb : s.busy = false) (hr : s.resetHeld = false)
    (hlen : rounds.length = 6) :
    ∃ t, runThrough (hostEvent .cmdInit :: steppedRounds rounds) s = .next t ∧ Waiting s.id 6 t ∧ t.errc = s.errc := by
  have hinit : perform (hostEvent .cmdInit) s = .next (giveNothing (freshDerivation s)) :=
    (perform_hostEvent rfl hr).trans (execCmdInit_idle hb)
  have hwait : Waiting s.id 0 (giveNothing (freshDerivation s)) :=
    ⟨derivation_of_fresh (s := giveNothing (freshDerivation s)) rfl rfl rfl rfl hr, hb⟩
  obtain ⟨t, ht, hend, herr⟩ := hwait.rounds rounds (by omega)
  exact ⟨t, (runThrough_cons _ hinit).trans ht, by rwa [hlen] at hend, herr⟩

end

/-- Settles O22: both derivations end with all six stages done, and then `CMD.STEP` finds none left. -/
theorem sixStepsEqualStart : Obligations.SixStepsEqualStart := by
  intro s early late es hb hr hk hturns
  rw [waitedSteps_eq_rounds]
  have hlen : ((List.finRange 6).map fun i => (early i, late i + 1)).length = 6 := by simp
  obtain ⟨t, ht, hstepped, herr⟩ := runThrough_init_rounds hb hr hlen
  obtain ⟨u, hu, hrun⟩ := runThrough_start_engine hb hr hk hturns
  refine ⟨t, u, ht, hu, hstepped.lic_eq hrun, hstepped.wb_eq.trans hrun.wb_eq.symm, hstepped.id.trans hrun.id.symm,
    hstepped.stage_eq_six.trans hrun.stage_eq_six.symm, hstepped.done.trans hrun.done.symm,
    hstepped.idle.trans hrun.busy.symm, hstepped.lic_eq_derive, hstepped.stage_eq_six, hstepped.done, hstepped.idle, herr, ?_⟩
  exact execCmdStep_finished hstepped.idle hstepped.stage_eq_six

/-- Settles O26: run or stepped, six stages of one identifier's derivation leave one result. -/
theorem noStateBetweenDerivations : Obligations.NoStateBetweenDerivations := by
  intro s u hid hbs hbu hrs hru
  rw [sixSteps_eq_rounds]
  obtain ⟨t, ht, hrun⟩ := runThrough_start_engine (es := List.replicate 5 .engine) hbs hrs (by decide) (by decide)
  obtain ⟨v, hv, hstepped, -⟩ := runThrough_init_rounds (rounds := List.replicate 6 (0, 0)) hbu hru rfl
  rw [← hid] at hstepped
  exact ⟨t, v, ht, hv, hrun.lic_eq hstepped.toDerivation, hrun.wb_eq.trans hstepped.wb_eq.symm,
    hrun.stage_eq_six.trans hstepped.stage_eq_six.symm, hrun.done.trans hstepped.done.symm,
    hrun.busy.trans hstepped.idle.symm⟩

/-- Settles O59: back to back the second `CMD.STEP` finds `BUSY` set; after the stage it finds it clear, at most five stages done. -/
theorem backToBackSteps : Obligations.BackToBackSteps := by
  intro s hb hr h4
  have h6 : s.stage ≠ 6 := by rw [ne_eq, stage_eq_six_iff]; omega
  have hfirst := perform_cmdStep hb hr h6
  refine ⟨⟨_, ?_, rfl⟩, ?_⟩
  · have hsecond : perform (hostEvent .cmdStep) (giveNothing (enableEngine .one s)) =
        .next (giveNothing (raiseError .busy (giveNothing (enableEngine .one s)))) :=
      (perform_hostEvent (s := giveNothing (enableEngine .one s)) rfl hr).trans (execCmdStep_busy rfl)
    exact (runThrough_cons _ hfirst).trans (runThrough_cons [] hsecond)
  · obtain ⟨t, hturn, htb, htr, hterr, htstage⟩ :=
      perform_engine_single (s := giveNothing (enableEngine .one s)) rfl hr rfl (Nat.lt_of_le_of_lt h4 (by decide))
    have hlater : t.stage ≠ 6 := by
      rw [ne_eq, stage_eq_six_iff, htstage, giveNothing_stage, enableEngine_stage]
      omega
    have hsecond := perform_cmdStep htb htr hlater
    exact ⟨_, (runThrough_cons _ hfirst).trans ((runThrough_cons _ hturn).trans (runThrough_cons [] hsecond)), hterr, rfl, rfl,
      htstage⟩

end Sys2Proof.Machine
end

section
/-! SUPPORT. Polling (70_reset_and_hazards.md R251): polls and engine turns alone, however interleaved, end a derivation after at
most six engine turns. -/

namespace Sys2Proof.Machine

/-- Polls and turns of the engine keep the invariants, and while `BUSY` stays set every turn is a stage. -/
theorem runThrough_polling {es : List Event} (hes : ∀ e ∈ es, e = .engine ∨ e = hostEvent .rdStatus) {s : State}
    (h : Consistent s) (hr : s.resetHeld = false) :
    ∃ t, runThrough es s = .next t ∧ Consistent t ∧
      (t.busy = true → s.busy = true ∧ t.stage.toNat = s.stage.toNat + engineTurns es) := by
  induction es generalizing s with
  | nil => exact ⟨_, runThrough_nil s, h.facing [], fun hb => ⟨hb, rfl⟩⟩
  | cons e es ih =>
    have hrest := fun e' he' => hes e' (List.mem_cons_of_mem e he')
    rcases hes e List.mem_cons_self with rfl | rfl
    · have hcount : engineTurns (.engine :: es) = engineTurns es + 1 := List.count_cons_self
      rcases engineTurn_cases s with ⟨hoff, hturn⟩ | ⟨hlt, hb, -, hturn⟩ | ⟨h6, hb, -, -⟩
      · obtain ⟨t, ht, hc, hend⟩ := ih hrest h hr
        refine ⟨t, (runThrough_cons (e := .engine) es hturn).trans ht, hc, fun htb => ?_⟩
        simp [(hend htb).1, hr] at hoff
      · have hstage := runStage_stage_toNat (s := s) (k := ⟨_, hlt⟩) rfl
        obtain ⟨t, ht, hc, hend⟩ := ih hrest (runStage_consistent h (k := ⟨_, hlt⟩) rfl) hr
        refine ⟨t, (runThrough_cons (e := .engine) es hturn).trans ht, hc, fun htb => ⟨hb, ?_⟩⟩
        rw [(hend htb).2, hstage, hcount, Nat.add_assoc, Nat.add_comm 1]
      · exact absurd (h.busy_range hb) (by omega)
    · have hcount : engineTurns (hostEvent .rdStatus :: es) = engineTurns es := List.count_cons_of_ne (by decide)
      obtain ⟨t, ht, hc, hend⟩ := ih hrest (s := giveBack s.status s) (h.environment ..) hr
      exact ⟨t, (runThrough_cons es (perform_poll hr)).trans ht, hc, by rwa [hcount]⟩

/-- Under weak fairness (R60) the engine has had any number of turns after some time. -/
theorem exists_engineTurns {f : Nat → Event} (hfair : ∀ n, ∃ m, n ≤ m ∧ f m = .engine) (c : Nat) :
    ∃ N, c ≤ engineTurns ((List.range N).map f) := by
  induction c with
  | zero => exact ⟨0, Nat.zero_le _⟩
  | succ c ih =>
    obtain ⟨N, hN⟩ := ih
    obtain ⟨m, hm, hfm⟩ := hfair N
    have hmono : engineTurns ((List.range N).map f) ≤ engineTurns ((List.range m).map f) :=
      ((List.range_sublist.2 hm).map f).count_le _
    have hlast : engineTurns ((List.range (m + 1)).map f) = engineTurns ((List.range m).map f) + 1 := by
      simp [engineTurns, List.range_succ, hfm]
    exact ⟨m + 1, by omega⟩

/-- Settles O58: after six turns of the engine `STAGE` would be past 5 if `BUSY` were still set. -/
theorem pollingTerminates : Obligations.PollingTerminates := by
  intro s f hc _ hr hf hfair
  obtain ⟨N, hN⟩ := exists_engineTurns hfair 6
  have hes : ∀ e ∈ (List.range N).map f, e = .engine ∨ e = hostEvent .rdStatus := by
    intro e he
    obtain ⟨n, -, rfl⟩ := List.mem_map.1 he
    exact hf n
  obtain ⟨t, ht, hct, hend⟩ := runThrough_polling hes hc hr
  have hidle : t.busy = false := by
    by_contra hb
    rw [Bool.not_eq_false] at hb
    have hrange := hct.busy_range hb
    rw [(hend hb).2] at hrange
    omega
  exact ⟨N, t, t.status, ht, hidle, rfl, (status_busy t).trans hidle⟩

end Sys2Proof.Machine
end

section
/-! SUPPORT. The result of a finished derivation (20_memory.md R61): nothing but a restart or a reset changes it. -/

namespace Sys2Proof.Machine

/-- The derivation is finished with this buffer and this license, and none is enabled. -/
structure Ready (wb lic : Bytes6) (s : State) : Prop where
  buffer : s.wb = wb
  license : s.lic = lic
  stage : s.stage = 6
  idle : s.busy = false
  done : s.done = true

section
variable {wb lic : Bytes6} {s : State}

/-- After the last stage no instruction but a restart changes the result; `CMD.STEP` is refused. -/
theorem exec_ready {i : Instr} {t : State} (h : Ready wb lic s) (hi : ¬ (i = .cmdStart ∨ i = .cmdInit ∨ i = .cmdClear))
    (ht : exec i s = .next t) : Ready wb lic t := by
  obtain ⟨hwb, hlic, hstage, hdone⟩ := (exec_result ht).resolve_right fun hr => hi hr.1
  refine ⟨hwb.trans h.buffer, hlic.trans h.license, hstage.trans h.stage, ?_, hdone.trans h.done⟩
  rcases exec_busy ht with hb | rfl | rfl | rfl
  · exact hb.trans h.idle
  · exact absurd (.inl rfl) hi
  · cases (execCmdStep_finished h.idle h.stage).symm.trans ht
    exact h.idle
  · exact absurd (.inr (.inr rfl)) hi

theorem perform_ready {e : Event} (h : Ready wb lic s) (hk : keepsResult e = true) :
    ∃ t, perform e s = .next t ∧ Ready wb lic t := by
  cases e with
  | word w =>
    cases hr : s.resetHeld with
    | false =>
      obtain ⟨t, ht, -⟩ := exec_next (decode w) s
      exact ⟨t, (hostTurn_released hr w).trans ht, exec_ready h (by simpa [keepsResult, restarts, and_assoc] using hk) ht⟩
    | true =>
      refine ⟨_, hostTurn_held hr w, ?_⟩
      rw [overlapReset_eq]
      exact ⟨h.buffer, h.license, h.stage, h.idle, h.done⟩
  | engine => exact ⟨s, engineTurn_idle h.idle, h⟩
  | resetAssert => simp [keepsResult] at hk
  | resetRelease => exact ⟨_, rfl, h.buffer, h.license, h.stage, h.idle, h.done⟩

theorem runThrough_ready {es : List Event} (h : Ready wb lic s) (hk : es.all keepsResult = true) :
    ∃ t, runThrough es s = .next t ∧ Ready wb lic t := by
  induction es generalizing s with
  | nil => exact ⟨_, runThrough_nil s, h.buffer, h.license, h.stage, h.idle, h.done⟩
  | cons e es ih =>
    obtain ⟨hke, hkes⟩ : keepsResult e = true ∧ es.all keepsResult = true := by simpa using hk
    obtain ⟨t, ht, hready⟩ := perform_ready h hke
    obtain ⟨u, hu, hend⟩ := ih hready hkes
    exact ⟨u, (runThrough_cons es ht).trans hu, hend⟩

/-- After the last stage the license is derived from the buffer, which is the identifier the derivation was of (R37 item 5). -/
theorem Consistent.lic_eq_derive (h : Consistent s) (h6 : s.stage = 6) : s.lic.toList = derive s.wb :=
  toList_eq_derive fun k => h.produced k (by rw [stage_eq_six_iff.1 h6]; exact k.isLt)

end

/-- Settles O51: the status byte shows a finished derivation, whose result `runThrough_ready` keeps. -/
theorem resultStaysUntilRestart : Obligations.ResultStaysUntilRestart := by
  intro s v es hc hread hbusy hdone hk
  have hv : s.status = v := by
    have hnext : giveBack s.status s = { s with reply := some v } := Host.Outcome.next.inj hread
    exact Option.some.inj (congrArg State.reply hnext)
  rw [← hv, status_busy] at hbusy
  rw [← hv, status_done] at hdone
  have h6 : s.stage = 6 := hc.done_iff.1 hdone
  obtain ⟨t, ht, hready⟩ := runThrough_ready (s := s) ⟨rfl, rfl, h6, hbusy, hdone⟩ hk
  exact ⟨hc.lic_eq_derive h6, t, ht, hready.license, hready.buffer, hready.idle, hready.done⟩

end Sys2Proof.Machine
end

section
/-! SUPPORT. What `ERRC` and the last reply cannot influence (60_exceptions.md R202, R205): every event makes of two states that differ in
them two states that differ in them. -/

namespace Sys2Proof.Machine

/-- `s` with another error code and another last reply. -/
def withError (e : ErrCode) (r : Option Byte) (s : State) : State := { s with errc := e, reply := r }

theorem exec_withError (i : Instr) (e : ErrCode) (r : Option Byte) (s : State) :
    ∃ t e' r', exec i s = .next t ∧ exec i (withError e r s) = .next (withError e' r' t) := by
  cases i with
  | wrId k d =>
    cases ha : s.active with
    | false => exact ⟨_, _, _, execWrId_idle ha k d, execWrId_idle (s := withError e r s) ha k d⟩
    | true => exact ⟨_, _, _, execWrId_active ha k d, execWrId_active (s := withError e r s) ha k d⟩
  | cmdStart =>
    cases hb : s.busy with
    | false => exact ⟨_, _, _, execCmdStart_idle hb, execCmdStart_idle (s := withError e r s) hb⟩
    | true => exact ⟨_, _, _, execCmdStart_busy hb, execCmdStart_busy (s := withError e r s) hb⟩
  | cmdInit =>
    cases hb : s.busy with
    | false => exact ⟨_, _, _, execCmdInit_idle hb, execCmdInit_idle (s := withError e r s) hb⟩
    | true => exact ⟨_, _, _, execCmdInit_busy hb, execCmdInit_busy (s := withError e r s) hb⟩
  | cmdStep =>
    cases hb : s.busy with
    | false =>
      by_cases h6 : s.stage = 6
      · exact ⟨_, _, _, execCmdStep_finished hb h6, execCmdStep_finished (s := withError e r s) hb h6⟩
      · exact ⟨_, _, _, execCmdStep_idle hb h6, execCmdStep_idle (s := withError e r s) hb h6⟩
    | true => exact ⟨_, _, _, execCmdStep_busy hb, execCmdStep_busy (s := withError e r s) hb⟩
  | illegal w => exact ⟨_, _, _, execIllegal_eq w s, execIllegal_eq w (withError e r s)⟩
  | _ => exact ⟨_, _, _, rfl, rfl⟩

theorem engineTurn_withError {s t : State} (h : engineTurn s = .next t) (e : ErrCode) (r : Option Byte) :
    engineTurn (withError e r s) = .next (withError e r t) := by
  rcases engineTurn_cases s with ⟨hoff, ht⟩ | ⟨hlt, hb, hr, ht⟩ | ⟨-, -, -, ht⟩ <;> cases ht.symm.trans h
  · exact if_neg (Bool.eq_false_iff.1 hoff)
  · exact (engineTurn_due (s := withError e r s) hb hr).trans (stageStep_next (s := withError e r s) hlt)

theorem perform_withError {ev : Event} {s t : State} (h : perform ev s = .next t) (e : ErrCode) (r : Option Byte) :
    ∃ e' r', perform ev (withError e r s) = .next (withError e' r' t) := by
  cases ev with
  | word w =>
    cases hr : s.resetHeld with
    | false =>
      obtain ⟨t', e', r', ht, hu⟩ := exec_withError (decode w) e r s
      cases ht.symm.trans ((hostTurn_released hr w).symm.trans h)
      exact ⟨e', r', (hostTurn_released (s := withError e r s) hr w).trans hu⟩
    | true =>
      cases (hostTurn_held hr w).symm.trans h
      refine ⟨e, (overlapReset (writeBit w) s).reply, (hostTurn_held (s := withError e r s) hr w).trans ?_⟩
      cases writeBit w <;> rfl
  | engine => exact ⟨e, r, engineTurn_withError h e r⟩
  | resetAssert =>
    cases h
    exact ⟨_, _, rfl⟩
  | resetRelease =>
    cases h
    exact ⟨_, _, rfl⟩

theorem runThrough_withError {es : List Event} {s t : State} (h : runThrough es s = .next t) (e : ErrCode) (r : Option Byte) :
    ∃ e' r', runThrough es (withError e r s) = .next (withError e' r' t) := by
  induction es generalizing s e r with
  | nil =>
    cases h
    exact ⟨e, r, rfl⟩
  | cons ev es ih =>
    obtain ⟨u, hu, hrest⟩ := runThrough_cons_inv h
    obtain ⟨e', r', hu'⟩ := perform_withError hu e r
    obtain ⟨e'', r'', hrest'⟩ := ih hrest e' r'
    exact ⟨e'', r'', (runThrough_cons es hu').trans hrest'⟩

/-- Settles O44: `runThrough_withError`, the induction over the events. -/
theorem errorsDisturbNothing : Obligations.ErrorsDisturbNothing := by
  intro s u t es hsame h
  obtain ⟨e, r, hv⟩ := runThrough_withError h u.errc u.reply
  refine ⟨withError e r t, ?_, rfl⟩
  rw [show u = withError u.errc u.reply s from hsame]
  exact hv

end Sys2Proof.Machine
end

section
/-! SUPPORT. `MODE` while the engine is not busy (10_state.md R29): no event reads it, and every event that sets `BUSY` sets it. -/

namespace Sys2Proof.Machine

/-- `s` with another run mode. -/
def withMode (m : Mode) (s : State) : State := { s with mode := m }

/-- On an idle engine an instruction leaves the mode unread, and sets it if it sets `BUSY`. -/
theorem exec_withMode (i : Instr) (m : Mode) {s : State} (hb : s.busy = false) :
    ∃ t m', exec i s = .next t ∧ exec i (withMode m s) = .next (withMode m' t) ∧ (t.busy = true → m' = t.mode) := by
  have hidle {t : State} {m' : Mode} (ht : t.busy = s.busy) (hbt : t.busy = true) : m' = t.mode := by simp [hbt, hb] at ht
  cases i with
  | wrId k d =>
    cases ha : s.active with
    | false => exact ⟨_, _, execWrId_idle ha k d, execWrId_idle (s := withMode m s) ha k d, hidle rfl⟩
    | true => exact ⟨_, _, execWrId_active ha k d, execWrId_active (s := withMode m s) ha k d, hidle rfl⟩
  | cmdStart => exact ⟨_, .all, execCmdStart_idle hb, execCmdStart_idle (s := withMode m s) hb, fun _ => rfl⟩
  | cmdInit => exact ⟨_, _, execCmdInit_idle hb, execCmdInit_idle (s := withMode m s) hb, hidle rfl⟩
  | cmdStep =>
    by_cases h6 : s.stage = 6
    · exact ⟨_, _, execCmdStep_finished hb h6, execCmdStep_finished (s := withMode m s) hb h6, hidle rfl⟩
    · exact ⟨_, .one, execCmdStep_idle hb h6, execCmdStep_idle (s := withMode m s) hb h6, fun _ => rfl⟩
  | cmdClear => exact ⟨_, _, rfl, rfl, nofun⟩
  | illegal w => exact ⟨_, _, execIllegal_eq w s, execIllegal_eq w (withMode m s), hidle rfl⟩
  | _ => exact ⟨_, _, rfl, rfl, hidle rfl⟩

theorem perform_withMode {e : Event} {s t : State} (hb : s.busy = false) (h : perform e s = .next t) (m : Mode) :
    ∃ m', perform e (withMode m s) = .next (withMode m' t) ∧ (t.busy = true → m' = t.mode) := by
  have hidle {m' : Mode} (hbt : s.busy = true) : m' = t.mode := by simp [hb] at hbt
  cases e with
  | word w =>
    cases hr : s.resetHeld with
    | false =>
      obtain ⟨t', m', ht, hu, hmode⟩ := exec_withMode (decode w) m hb
      cases ht.symm.trans ((hostTurn_released hr w).symm.trans h)
      exact ⟨m', (hostTurn_released (s := withMode m s) hr w).trans hu, hmode⟩
    | true =>
      cases (hostTurn_held hr w).symm.trans h
      refine ⟨m, (hostTurn_held (s := withMode m s) hr w).trans ?_, fun hbt => ?_⟩
      · cases writeBit w <;> rfl
      · rw [overlapReset_eq] at hbt
        exact hidle hbt
  | engine =>
    cases (engineTurn_idle hb).symm.trans h
    exact ⟨m, engineTurn_idle (s := withMode m s) hb, hidle⟩
  | resetAssert =>
    cases h
    exact ⟨_, rfl, nofun⟩
  | resetRelease =>
    cases h
    exact ⟨m, rfl, hidle⟩

/-- The runs differ in the mode at most, and once `BUSY` is set they are one run. -/
theorem runThrough_withMode {es : List Event} {s t : State} (hb : s.busy = false) (h : runThrough es s = .next t) (m : Mode) :
    ∃ m', runThrough es (withMode m s) = .next (withMode m' t) ∧ (t.busy = true → m' = t.mode) := by
  induction es generalizing s m with
  | nil =>
    cases h
    exact ⟨m, rfl, fun hbt => absurd (hb.symm.trans hbt) (by decide)⟩
  | cons e es ih =>
    obtain ⟨u, hu, hrest⟩ := runThrough_cons_inv h
    obtain ⟨m', hu', hmode⟩ := perform_withMode hb hu m
    cases hbu : u.busy with
    | false =>
      obtain ⟨m'', hrest', hend⟩ := ih hbu hrest m'
      exact ⟨m'', (runThrough_cons es hu').trans hrest', hend⟩
    | true =>
      have hsame : withMode m' u = u := by rw [hmode hbu]; rfl
      rw [hsame] at hu'
      exact ⟨t.mode, (runThrough_cons es hu').trans hrest, fun _ => rfl⟩

/-- Settles O57: `runThrough_withMode`, the induction over the events. -/
theorem modeUnobservable : Obligations.ModeUnobservable := by
  intro s t m es hb h
  obtain ⟨m', hv, hmode⟩ := runThrough_withMode hb h m
  exact ⟨withMode m' t, hv, rfl, hmode⟩

end Sys2Proof.Machine
end

section
/-! SUPPORT. A stage and what the host reads after it (41_cascade.md R120, R132; 42_bus_access.md R142, R144). -/

namespace Sys2Proof.Machine

/-! ## The stage step (R120) -/

theorem stage_toNat_of_index {s : State} {k : Index} (h : s.stage = BitVec.ofNat 3 k.val) : s.stage.toNat = k.val :=
  (stage_eq_iff (by omega)).1 h

/-- With `BUSY` set and reset released the engine's turn is the stage that `STAGE` names. -/
theorem engineTurn_stage {s : State} {k : Index} (hk : s.stage.toNat = k.val) (hb : s.busy = true) (hr : s.resetHeld = false) :
    engineTurn s = .next (runStage k s) := by
  have hlt : s.stage.toNat < 6 := hk ▸ k.isLt
  have hindex : k = ⟨s.stage.toNat, hlt⟩ := Fin.ext hk.symm
  rw [hindex]
  exact (engineTurn_due hb hr).trans (stageStep_next hlt)

theorem runStage_stage_ofNat {s : State} {k : Index} (hk : s.stage.toNat = k.val) :
    (runStage k s).stage = BitVec.ofNat 3 (k.val + 1) :=
  (stage_eq_iff (by omega)).2 (runStage_stage_toNat hk)

/-- Settles O17: the due stage is `runStage`, field by field; an idle engine's turn is none. -/
theorem stageStepEffect : Obligations.StageStepEffect := by
  refine ⟨fun s k hstage hr hb => ?_, fun s hb => engineTurn_idle hb, ?_⟩
  · have hk := stage_toNat_of_index hstage
    have hbusy : (runStage k s).busy = if s.mode = .one ∨ k.val + 1 = 6 then false else true := by
      rw [runStage_busy, busyAfter, hb]
    rw [engineTurn_stage hk hb hr, ← runStage_stage_ofNat hk, ← hbusy]
    rfl
  · exact ⟨_, engineTurn_stage (k := 0) rfl rfl rfl, by decide +kernel, by decide +kernel, by decide +kernel⟩

/-! ## What the host reads (R132, R142, R144) -/

theorem exec_rdLic (k : Index) (s : State) : exec (.rdLic k) s = .next { s with reply := some s.lic[k] } := rfl

theorem exec_rdWb (k : Index) (s : State) : exec (.rdWb k) s = .next { s with reply := some s.wb[k] } := rfl

/-- Settles O18: the stage's buffer is `mixed`, which the host reads byte by byte, and its checksum is the new byte of `LIC`. -/
theorem snapshotAfterStage : Obligations.SnapshotAfterStage := by
  intro s k hc hstage hb hr
  have hk := stage_toNat_of_index hstage
  have hbuffer : (runStage k s).wb = mixed s.id k := hc.wb_set hk
  refine ⟨_, engineTurn_stage hk hb hr, runStage_stage_ofNat hk, fun j => ?_, ?_⟩
  · rw [exec_rdWb, hbuffer, mixed_getElem]
  · rw [exec_rdLic, runStage_lic, set_getElem, if_pos rfl, hc.wb_set hk]

/-- Settles O29: before its stage the invariants give the byte's initial value, after it the stage's, and at the end the derived
one. -/
theorem readLicenseAndBuffer : Obligations.ReadLicenseAndBuffer := by
  intro k d s
  obtain ⟨hfile, -⟩ := opcodeMapByRanges
  obtain ⟨-, hlic, hwb, -⟩ := hfile k d
  refine ⟨hlic, hwb, exec_rdLic k s, exec_rdWb k s, fun hc hk => ?_, fun hc h5 hk => ?_, fun hc _ hd hid => ?_⟩
  · obtain ⟨hwbk, hlick⟩ := hc.ahead k hk
    rw [exec_rdLic, exec_rdWb, hwbk, hlick]
    exact ⟨rfl, rfl⟩
  · have hsame (j : Index) (hj : j ≤ k) : s.wb[j] = s.id[j] := hc.wb_below h5 (lt_of_le_of_lt hj hk)
    rw [exec_rdLic, exec_rdWb, hc.produced k hk, mixed_congr hsame, hsame k le_rfl]
    exact ⟨rfl, rfl⟩
  · have h6 := stage_eq_six_iff.1 (hc.done_iff.1 hd)
    rw [exec_rdLic, derive_getElem?, hc.produced k (by omega), hid]

end Sys2Proof.Machine
end

section
/-! SUPPORT. `CMD.START` and `CMD.STEP` (43_commands.md R171, R173), and reset (10_state.md R36, 70_reset_and_hazards.md R230, R231). -/

namespace Sys2Proof.Machine

/-- Settles O37: the two forms of `CMD.START`. -/
theorem commandStart : Obligations.CommandStart := by
  obtain ⟨-, -, -, ⟨-, hdecode, -⟩, -⟩ := opcodeMapByRanges
  exact ⟨hdecode, fun _ hb => execCmdStart_busy hb, fun _ hb => execCmdStart_idle hb⟩

/-- Settles O39: the three forms of `CMD.STEP`. -/
theorem commandStep : Obligations.CommandStep := by
  obtain ⟨-, -, -, ⟨-, -, -, hdecode, -⟩, -⟩ := opcodeMapByRanges
  exact ⟨hdecode, fun _ hb => execCmdStep_busy hb, fun _ hb h6 => execCmdStep_finished hb h6,
    fun _ hb h6 => execCmdStep_idle hb h6⟩

/-- The reset step, with the rest of the schedule to come. -/
theorem step_resetAssert {s : State} {rest : List Event} (h : s.schedule = .resetAssert :: rest) :
    step s = .next (resetEngine (s.facing rest)) := step_cons h

/-- Settles O52: the reset step writes the values of R36, which are those that `CMD.INIT` leaves; `CMD.STEP` finds an idle engine
at stage 0. -/
theorem resetValues : Obligations.ResetValues := by
  refine ⟨fun s rest h => ?_, ?_, fun s hid he hb => ?_, execCmdStep_idle rfl (by decide)⟩
  · exact ⟨_, step_resetAssert h, rfl, rfl, rfl, rfl, rfl, rfl, rfl, status_of_idle_at_zero rfl rfl rfl rfl, rfl, rfl, rfl, rfl,
      rfl, rfl⟩
  · exact ⟨rfl, rfl, rfl, rfl, rfl, rfl, rfl, rfl, rfl, rfl, rfl, rfl⟩
  · exact ⟨_, execCmdInit_idle hb, hid, rfl, rfl, status_of_idle_at_zero rfl rfl hb he⟩

/-- Settles O54: both write the constants a derivation starts from; only reset writes `ID`. -/
theorem clearAndResetDifferInId : Obligations.ClearAndResetDifferInId :=
  fun _ => ⟨_, _, rfl, rfl, rfl, rfl, rfl, rfl, rfl, rfl, rfl, rfl, rfl, rfl⟩

/-- While reset stays asserted an event other than its release or assertion changes the reply and the count of free values at
most. -/
theorem perform_held {e : Event} {s : State} (h : s.resetHeld = true) (he : e ≠ .resetRelease ∧ e ≠ .resetAssert) :
    ∃ r n, perform e s = .next { s with reply := r, freeCount := n } := by
  cases e with
  | word w => exact ⟨_, _, (hostTurn_held h w).trans (congrArg _ (overlapReset_eq _ s))⟩
  | engine => exact ⟨_, _, engineTurn_held h⟩
  | resetAssert => exact absurd rfl he.2
  | resetRelease => exact absurd rfl he.1

/-- Settles O53: `perform_held` along the events. -/
theorem heldResetStopsBothAgents : Obligations.HeldResetStopsBothAgents := by
  intro s es h hes
  induction es generalizing s with
  | nil => exact ⟨_, runThrough_nil s, rfl, h⟩
  | cons e es ih =>
    obtain ⟨r, n, he⟩ := perform_held h (hes e List.mem_cons_self)
    obtain ⟨t, ht, hframe, hheld⟩ := ih { s with reply := r, freeCount := n } h fun e' he' => hes e' (List.mem_cons_of_mem e he')
    exact ⟨t, (runThrough_cons es he).trans ht, hframe, hheld⟩

end Sys2Proof.Machine
end

section
/-! SUPPORT. The step by the head of the schedule (20_memory.md R58, 70_reset_and_hazards.md R230). -/

namespace Sys2Proof.Machine

/-- With a host word next and reset released the step runs the decoded instruction. -/
theorem step_word {s : State} {w : BusWord} {rest : List Event} (h : s.schedule = .word w :: rest) (hr : s.resetHeld = false) :
    step s = exec (decode w) (s.facing rest) :=
  (step_cons h).trans (hostTurn_released (s := s.facing rest) hr w)

/-- A 16-bit table word is the decoder's word. -/
theorem decodeTableWord_eq_some {w : Nat} {i : Instr} (h : decodeTableWord 16 w = some i) :
    decode (placedWord 16 w) = i := by
  unfold decodeTableWord at h
  split at h
  case isTrue hw => rw [placedWord, Nat.mod_eq_of_lt hw.2]; exact Option.some.inj h
  case isFalse => cases h

/-- Settles O55: `step_word` at a word as it is, at an instruction's word, and at a placed word. -/
theorem stepRunsDecodedWord : Obligations.StepRunsDecodedWord := by
  refine ⟨fun s w rest h hr => step_word h hr, fun s i rest hwf h hr => ?_, fun s w i h => ?_⟩
  · rw [step_word h hr, decode_encode hwf]
    rfl
  · have hstep := step_word (s := s.withFetchWord 16 w) (w := placedWord 16 w) (rest := s.schedule) rfl rfl
    rw [hstep, decodeTableWord_eq_some h]
    rfl

/-- Settles O56: the event at the head, or the engine's turn at the end of the schedule. -/
theorem stepTakesTheScheduledTurn : Obligations.StepTakesTheScheduledTurn := by
  refine fun s rest => ⟨fun h hb hr => ?_, fun h hb => ?_, fun h hb hr => ?_, fun h hb => ?_, step_resetAssert, step_cons⟩
  · exact (step_cons h).trans (engineTurn_due (s := s.facing rest) hb hr)
  · exact (step_cons h).trans (engineTurn_idle (s := s.facing rest) hb)
  · exact (step_nil h).trans (engineTurn_due hb hr)
  · exact (step_nil h).trans (engineTurn_idle hb)

end Sys2Proof.Machine
end
